-- ==== Sys2Proof/Word.lean ====
section
/-! DEFINITION. Bytes, and vectors read and written by a bounded index. -/

namespace Sys2Proof

/-- One byte on the station port or a field line (R202, R203). -/
abbrev Byte := BitVec 8

/-- Read entry `i` of a fixed run of like records. -/
def vget {α : Type} {n : Nat} (v : Vector α n) (i : Fin n) : α := v[i.val]

/-- Replace entry `i`. -/
def vset {α : Type} {n : Nat} (v : Vector α n) (i : Fin n) (x : α) : Vector α n :=
  v.set i.val x i.isLt

/-- The vector whose entry `i` is `f i`. -/
def vofFn {α : Type} {n : Nat} (f : Fin n → α) : Vector α n :=
  ⟨⟨(List.finRange n).map f⟩, by simp⟩

@[simp] theorem vget_vset_self {α : Type} {n : Nat} (v : Vector α n) (i : Fin n) (x : α) :
    vget (vset v i x) i = x := by
  simp [vget, vset]

@[simp] theorem vget_vset_ne {α : Type} {n : Nat} (v : Vector α n) (i j : Fin n) (x : α)
    (h : i ≠ j) : vget (vset v i x) j = vget v j := by
  have h' : i.val ≠ j.val := fun e => h (Fin.ext e)
  simp [vget, vset, h']

theorem vget_vset {α : Type} {n : Nat} (v : Vector α n) (i j : Fin n) (x : α) :
    vget (vset v i x) j = if i = j then x else vget v j := by
  by_cases h : i = j
  · subst h; simp
  · simp [h]

@[simp] theorem vget_vofFn {α : Type} {n : Nat} (f : Fin n → α) (i : Fin n) :
    vget (vofFn f) i = f i := by
  simp [vget, vofFn]

end Sys2Proof
end

