-- ==== Sys2Proof/Config.lean ====
section
/-! DEFINITION. The sizes the part fixes, and the values the spec leaves open. -/

namespace Sys2Proof.Config

/-- Posting slots in the table (R1, R41). -/
def capacity : Nat := 256
/-- Lines of the text pool (R6). -/
def poolLines : Nat := 512
/-- Places of the distribution queue (R74). -/
def queuePlaces : Nat := 640
/-- The largest pass time, 2^32-1 (R182). -/
def maxPassTime : Nat := 4294967295
/-- Body bytes of a request the port stores (R203). -/
def storedBody : Nat := 300
/-- Sends of one LOAD or one COMMIT in all (R57, R60). -/
def maxTries : Nat := 3
/-- Misses in a row that make a unit LOST (R46). -/
def lostMisses : Nat := 3
/-- The field response timeout in milliseconds (R44). -/
def responseMs : Nat := 50

/-- FREE VALUE (log 7): the pin of an AUTO closure when pass time plus the hold passes 2^32-1. The
spec gives no value for that sum (R18, R164). Applied to the free-value counter of State. -/
opaque pinBeyond : Nat → BitVec 32

/-- FREE VALUE (log 6): a byte shifted out after the sum byte of a reply has gone (R194). Applied to
the free-value counter of State plus the byte's place. -/
opaque afterSum : Nat → BitVec 8

end Sys2Proof.Config
end

