-- ==== Sys2Proof/Syntax.lean ====
section
/-! DEFINITION. The commands: one constructor per row of spec/opcode_table.json, with its operands. -/

namespace Sys2Proof

/-- A posting handle: table slot 0..255 and generation 0..15 (00_scope.md, R1). -/
structure Handle where
  slot : Fin 256
  gen  : BitVec 4
  deriving DecidableEq, Repr

/-- A unit, by line 0..3 and address. The address 1..12 is held as `addr + 1` (00_scope.md). -/
structure UnitId where
  line : Fin 4
  addr : Fin 12
  deriving DecidableEq, Repr

/-- The kind a unit reports and the plan gives it (R52, R172). -/
inductive UnitKind where
  | sign | gate | monitor
  deriving DecidableEq, Repr

/-- A gate position in a STATUS (R52): OPEN, CLOSED, MOVING, FAULT. -/
inductive GatePos where
  | isOpen | closed | moving | fault
  deriving DecidableEq, Repr

/-- A gate's key mode in a STATUS (R52): REMOTE, LOCAL. -/
inductive KeyMode where
  | remote | atPanel
  deriving DecidableEq, Repr

/-- One reported copy slot (R52). On an empty slot the amended bit is already dropped. -/
inductive SlotReport where
  | empty
  | held (handle : Handle) (version : Byte) (amended : Bool)
  deriving DecidableEq, Repr

/-- The body of a STATUS (R52): eight slots for a SIGN, two slots, a position and a key mode for a
GATE, a trip count and a fault bit for a MONITOR. -/
inductive Report where
  | sign (slots : List SlotReport)
  | gate (slots : List SlotReport) (pos : GatePos) (key : KeyMode)
  | monitor (trips : Byte) (fault : Bool)
  deriving DecidableEq, Repr

/-- What the host shifts in during one port transaction: the body of a request whose frame has passed the
checks of R193, or every byte of a malformed frame. A transaction is one event, its end; `begunBusy` says
that it began while the port was BUSY, which shows the host another status byte when the SETTLE has ended
meanwhile (R192, log 5). -/
structure Shifted where
  bytes     : List Byte
  begunBusy : Bool
  deriving DecidableEq, Repr

/-- A reply read: how many bytes the host clocks, and whether it began while the port was BUSY (R192,
R194, log 5). -/
structure Clocked where
  count     : Nat
  begunBusy : Bool
  deriving DecidableEq, Repr

/-- The commands of spec/opcode_table.json, in its order. A request carries what its transaction shifts
in. An answer carries the line, its address byte and its contents (R45, R204); a timer event names its
owner. -/
inductive Instr where
  | post (sent : Shifted)
  | change (sent : Shifted)
  | retire (sent : Shifted)
  | lookup (sent : Shifted)
  | scan (sent : Shifted)
  | walk (sent : Shifted)
  | describe (sent : Shifted)
  | unitStatus (sent : Shifted)
  | sectionStatus (sent : Shifted)
  | gateStatus (sent : Shifted)
  | detectorStatus (sent : Shifted)
  | pathStatus (sent : Shifted)
  | releaseSection (sent : Shifted)
  | forceSweep (sent : Shifted)
  | confirmClear (sent : Shifted)
  | gateRetry (sent : Shifted)
  | settle (sent : Shifted)
  | abort (sent : Shifted)
  | takeAttention (sent : Shifted)
  | setEnables (sent : Shifted)
  | attend (sent : Shifted)
  | unattend (sent : Shifted)
  | setTime (sent : Shifted)
  | readTime (sent : Shifted)
  | planRoad (sent : Shifted)
  | planUnit (sent : Shifted)
  | planSection (sent : Shifted)
  | planDetector (sent : Shifted)
  | planPath (sent : Shifted)
  | readPlan (sent : Shifted)
  | commission (sent : Shifted)
  | decommission (sent : Shifted)
  | unknownRequestCode (code : Byte) (sent : Shifted)
  | replyRead (sent : Clocked)
  | hostIntervalRunOut
  | settleTimeout
  | passTimeSecond
  | mainsLoss
  | mainsReturn
  | resetPinAsserted
  | resetPinReleased
  | status (line : Fin 4) (addr : Byte) (report : Report)
  | ack (line : Fin 4) (addr : Byte)
  | ackBurst (line : Fin 4) (addr : Byte)
  | ackSingle (line : Fin 4) (addr : Byte)
  | nak (line : Fin 4) (addr : Byte)
  | amendData (line : Fin 4) (addr : Byte) (base : Byte) (severity : Option Nat)
      (text : Option (List (List Byte)))
  | noAnswer (line : Fin 4)
  | fieldResponseTimeout (line : Fin 4)
  | windowRunOut (path : Fin 24)
  | travelLimitReached (gate : Fin 16)
  | noticeTimerReachesL (sec : Fin 8)
  | noticeWaitRunOut (sec : Fin 8)
  | sweepMinimumRun (sec : Fin 8)
  | sweepOverdueRun (sec : Fin 8)
  | detectorRise (input : Fin 16)
  | detectorFall (input : Fin 16)
  | stuckLimitReached (input : Fin 16)
  | requestFrameError (sent : Shifted)
  | backupDomainLost
  deriving DecidableEq, Repr

end Sys2Proof
end

