-- ==== Sys2Proof/Machine/State.lean ====
section
/-! DEFINITION. Everything the spec gives the controller to hold, as plain data, and reset. -/

namespace Sys2Proof.Machine

/-! ### Units -/

/-- The place of a unit among the 48 addresses, lines before addresses. -/
def unitIdx (u : UnitId) : Fin 48 :=
  ⟨u.line.val * 12 + u.addr.val, by have := u.line.isLt; have := u.addr.isLt; omega⟩

/-! ### Postings (chapter 1) -/

/-- Kinds in kind order (1.1). -/
inductive PKind where
  | closure | danger | restriction | limit | notice
  deriving DecidableEq, Repr

/-- Who made a posting (R5). -/
inductive Authority where
  | station | auto | field
  deriving DecidableEq, Repr

/-- The states of a posting that is not FREE (1.4). A FREE slot holds no posting record. -/
inductive PState where
  | pending | active | retiring
  deriving DecidableEq, Repr

/-- Urgency of a CLOSURE (1.1). -/
inductive Urgency where
  | noticed | immediate
  deriving DecidableEq, Repr

/-- Why a posting retired (R13). -/
inductive RetireCause where
  | host | expired | keyReturn
  deriving DecidableEq, Repr

/-- A posting record (1.1). `detail` is coded as in the posting image: the danger level, the speed in
tens of km/h, or the class (12.1). -/
structure Posting where
  state     : PState
  kind      : PKind
  authority : Authority
  first     : Nat
  last      : Nat
  path      : Option Nat
  severity  : Nat
  detail    : Option Nat
  urgency   : Option Urgency
  text      : List (List Byte)
  start     : Option Nat
  expiry    : Option Nat
  pin       : Option Nat
  cause     : Option RetireCause
  source    : Option UnitId
  deriving DecidableEq, Repr

/-- A table slot (R1): its generation, the version of its posting (its version count while FREE), and
the posting, absent while FREE. -/
structure Slot where
  gen     : BitVec 4
  version : Byte
  posting : Option Posting
  deriving DecidableEq, Repr

/-! ### The site plan (chapter 9) -/

/-- SOUTHWARD or NORTHWARD (00_scope.md). -/
inductive Dir where
  | south | north
  deriving DecidableEq, Repr

/-- A unit's view before clipping (R172). -/
structure View where
  first : Nat
  dir   : Dir
  len   : Nat
  deriving DecidableEq, Repr

/-- A planned unit with the items of its kind (R172). Bit i of a kind mask is kind i. -/
inductive PlanUnit where
  | sign (view : View) (mask : BitVec 5)
  | gate (view : View) (mask : BitVec 5) (number : Fin 16) (travel : Nat)
  | monitor
  deriving DecidableEq, Repr

/-- A planned section (R173). Times in seconds. -/
structure PlanSection where
  first     : Nat
  last      : Nat
  gates     : List (Fin 16)
  approach  : List UnitId
  lead      : Nat
  wait      : Nat
  sweepMin  : Nat
  sweepOver : Nat
  deriving DecidableEq, Repr

/-- The sense of a detector (R174). -/
inductive Sense where
  | into | out
  deriving DecidableEq, Repr

/-- A planned detector (R174): minimum pulse in ms, stuck limit in s. -/
structure PlanDetector where
  assign   : Option (Fin 8 × Sense)
  minPulse : Nat
  stuck    : Nat
  deriving DecidableEq, Repr

/-- A planned path (R175): segments ascending, thresholds T[0]..T[4], window W and hold H in seconds,
silent closure level S. -/
structure PlanPath where
  segs       : List Nat
  monitor    : Option UnitId
  thresholds : List Nat
  window     : Nat
  hold       : Nat
  silent     : Nat
  deriving DecidableEq, Repr

/-- The site plan: one record (chapter 9). -/
structure Plan where
  road      : Option Nat
  units     : Vector (Option PlanUnit) 48
  sections  : Vector (Option PlanSection) 8
  detectors : Vector PlanDetector 16
  paths     : Vector (Option PlanPath) 24
  deriving DecidableEq, Repr

/-- The two part states (R169). -/
inductive PartState where
  | planning | running
  deriving DecidableEq, Repr

/-! ### Distribution Engine (chapter 4) -/

/-- A directory record (R69). In AMENDED and OVERRULED the version held equals the base version. -/
inductive CopySlot where
  | empty
  | current (h : Handle) (version : Byte)
  | behind (h : Handle) (version : Byte)
  | amended (h : Handle) (base : Byte)
  | overruled (h : Handle) (base : Byte)
  | unknown
  deriving DecidableEq, Repr

/-- An entry of the distribution queue (R74). -/
inductive Entry where
  | posting (h : Handle)
  | unit (u : UnitId)
  | marker
  deriving DecidableEq, Repr

/-- One copy slot of a fetch set, and whether its fetch has ended (R77, R78). -/
structure FetchItem where
  unit  : UnitId
  slot  : Nat
  ended : Bool
  deriving DecidableEq, Repr

/-- The two phases of the head entry's work (4.4). -/
inductive Phase where
  | fetch | reconcile
  deriving DecidableEq, Repr

/-- The work of the head entry: its phase, the fetch set, the affected units (fixed when the
reconcile phase begins) and the units whose part has ended (R77, R80, R83). -/
structure HeadWork where
  phase    : Phase
  fetch    : List FetchItem
  affected : List UnitId
  ended    : List UnitId
  deriving DecidableEq, Repr

/-- A waiting SETTLE: its timer in ms and its timeout in s (R92). -/
structure Settle where
  ms      : Nat
  timeout : Nat
  deriving DecidableEq, Repr

/-! ### Field Line Controllers (chapter 3) -/

/-- Link states (R47). -/
inductive LinkState where
  | unplanned | seeking | online | lost
  deriving DecidableEq, Repr

/-- A unit link record (3.2). -/
structure Link where
  kind   : Option UnitKind
  state  : LinkState
  misses : Nat
  last   : Option Report
  deriving DecidableEq, Repr

/-- The image a load and commit carries: handle, version and carried fields (R56). -/
structure Image where
  handle   : Handle
  version  : Byte
  kind     : PKind
  first    : Nat
  last     : Nat
  severity : Nat
  detail   : Option Nat
  urgency  : Option Urgency
  text     : List (List Byte)
  deriving DecidableEq, Repr

/-- The step a transfer has reached (R56); TEXT as one burst (R58) or at the index of the next single
line (R59). -/
inductive XStep where
  | load | burst | line (idx : Nat) | commit | clear | fetch
  deriving DecidableEq, Repr

/-- What a transfer is for: a load and commit of an image, a clear, or a fetch. The handle a fetch
was taken for is DE's "fetched handle" of R79 (log 22). -/
inductive XKind where
  | load (image : Image)
  | clear
  | fetch (h : Handle)
  deriving DecidableEq, Repr

/-- The transfer record of a line (R56). -/
structure Transfer where
  addr     : Fin 12
  kind     : XKind
  slot     : Nat
  overrule : Bool
  step     : XStep
  tries    : Nat
  deriving DecidableEq, Repr

/-- A position ordered of a gate: OPEN or CLOSE (R54). -/
inductive Order where
  | toOpen | toClose
  deriving DecidableEq, Repr

/-- What the exchange in flight sent: a POLL, a GATE_ORDER, or the transfer's present step (R44). -/
inductive Sent where
  | poll
  | gateOrder (d : Order)
  | work
  deriving DecidableEq, Repr

/-- The exchange in flight on a line; `ms` counts since it began, up to 50 (R44, log 4). -/
structure Exchange where
  addr : Fin 12
  sent : Sent
  ms   : Nat
  deriving DecidableEq, Repr

/-- A gate order list entry (R54), with what happened to it while its exchange was in flight. -/
structure GateOrder where
  addr      : Fin 12
  dir       : Order
  replaced  : Bool
  withdrawn : Bool
  deriving DecidableEq, Repr

/-- One field line. -/
structure Line where
  pointer  : Option (Fin 12)
  inFlight : Option Exchange
  transfer : Option Transfer
  orders   : List GateOrder
  deriving DecidableEq, Repr

/-! ### Section Control (chapter 6) -/

/-- Section states (R114). -/
inductive SecState where
  | isOpen | notice | shutting | sweep | closed | clearable | opening
  deriving DecidableEq, Repr

/-- A section record (R114). Timers in ms; absent while stopped. -/
structure SectionRec where
  state     : SecState
  notice    : Option Nat
  sweepMin  : Option Nat
  sweepOver : Option Nat
  overdue   : Bool
  deriving DecidableEq, Repr

/-- Position states of a gate (R126). -/
inductive PosState where
  | unknown | isOpen | closed | moving | jammed | fault
  deriving DecidableEq, Repr

/-- Order phases of a gate (R126). -/
inductive OrderPhase where
  | idle | pending | travelling
  deriving DecidableEq, Repr

/-- A gate record (R126). The travel timer is in ms; absent while stopped. `retried` is the model's mark of
a GATE_RETRY that no report of the unit has followed yet: a FAULT in that report sets GATE_FAULT also
where the gate stood in FAULT (R132, log 36). -/
structure GateRec where
  sec      : Fin 8
  unit     : UnitId
  travel   : Nat
  pos      : PosState
  reported : Option GatePos
  key      : Option KeyMode
  standing : Order
  phase    : OrderPhase
  timer    : Option Nat
  link     : Option Handle
  retried  : Bool
  deriving DecidableEq, Repr

/-! ### Counting Channels (chapter 7) -/

/-- Input states (R142). -/
inductive InState where
  | unused | working | stuck
  deriving DecidableEq, Repr

/-- LOW or HIGH (R141). -/
inductive Level where
  | low | high
  deriving DecidableEq, Repr

/-- An input record (R141). The level is absent while UNUSED; the high timer is in ms. -/
structure InputRec where
  state   : InState
  level   : Option Level
  timer   : Option Nat
  partialMark : Bool
  counted : BitVec 16
  short   : BitVec 16
  deriving DecidableEq, Repr

/-- An occupancy record (R146). -/
inductive Occ where
  | known (n : Nat)
  | unknown
  deriving DecidableEq, Repr

/-! ### Path Watch (chapter 8) -/

/-- Watch states (R152). -/
inductive Watch where
  | unwatched | waiting | quiet | counting | silent
  deriving DecidableEq, Repr

/-- Cause of an AUTO action (R164). -/
inductive AutoCause where
  | trip | silent
  deriving DecidableEq, Repr

/-- A path record (R152). The window timer is in ms; absent while stopped. -/
structure PathRec where
  watch    : Watch
  level    : Nat
  timer    : Option Nat
  count    : Nat
  baseline : Option Byte
  link     : Option Handle
  last     : Option (AutoCause × Nat)
  deriving DecidableEq, Repr

/-! ### Attention flags and replies (chapter 11) -/

/-- The 14 attention flags, in the order of R196. -/
inductive Flag where
  | start | unitLost | unitBack | gateFault | gateLocal | sectionChange | sweepOverdue | pathTrip
  | pathSilent | amendMerged | amendDiscarded | detectorFault | postingExpired | hostSilent
  deriving DecidableEq, Repr

/-- ATTENDED or UNATTENDED (R199, R200). -/
inductive Mode where
  | attended | unattended
  deriving DecidableEq, Repr

/-- Port states (R192). -/
inductive PortState where
  | ready | busy | unread
  deriving DecidableEq, Repr

/-- Result codes, in the order of R193. -/
inductive Result where
  | done | settled | none | badRequest | badState | badPlan | stale | retired | full | textFull
  | amended | pinned | authority | duplicate | notClear | timeout | aborted | frameError
  deriving DecidableEq, Repr

/-- A posting as LOOKUP and WALK report it: handle, version and every field (R23, R40). -/
structure PostingView where
  handle  : Handle
  version : Byte
  posting : Posting
  deriving DecidableEq, Repr

/-- The best posting of a SCAN (R37). -/
structure BestView where
  handle    : Handle
  state     : PState
  kind      : PKind
  authority : Authority
  first     : Nat
  last      : Nat
  severity  : Nat
  version   : Byte
  deriving DecidableEq, Repr

/-- The body of a SCAN reply (R36). -/
structure ScanView where
  found    : Option Nat
  examined : Nat
  next     : Option Nat
  atEnd    : Bool
  best     : Option BestView
  matching : Option Nat
  deriving DecidableEq, Repr

/-- The body of a DESCRIBE reply (R41). -/
structure DescribeView where
  part      : PartState
  capacity  : Nat
  reserve   : Nat
  station   : Nat
  auto      : Nat
  field     : Nat
  pending   : Nat
  active    : Nat
  retiring  : Nat
  room      : Nat
  linesUsed : Nat
  linesFree : Nat
  queued    : Nat
  segments  : Nat
  sections  : Nat
  gates     : Nat
  units     : Nat
  paths     : Nat
  detectors : Nat
  deriving DecidableEq, Repr

/-- The transfer part of a UNIT_STATUS reply (R65). -/
structure TransferView where
  kind  : XKind
  slot  : Nat
  step  : XStep
  tries : Nat
  deriving DecidableEq, Repr

/-- The body of a UNIT_STATUS reply (R65); every field but the link state is absent for an address
with no planned unit. -/
structure UnitView where
  kind     : Option UnitKind
  state    : LinkState
  misses   : Option Nat
  last     : Option Report
  transfer : Option TransferView
  order    : Option (Order × Bool)
  slots    : List CopySlot
  deriving DecidableEq, Repr

/-- The body of a SECTION_STATUS reply (R136). Timers in seconds. -/
structure SectionView where
  state     : SecState
  standing  : Order
  covered   : Bool
  atOnce    : Bool
  notice    : Option Nat
  ready     : Option (Nat × Nat)
  sweepMin  : Option Nat
  sweepOver : Option Nat
  overdue   : Option Bool
  occupancy : Occ
  gates     : List (Fin 16 × PosState)
  deriving DecidableEq, Repr

/-- The body of a GATE_STATUS reply (R137). The travel timer in seconds. -/
structure GateView where
  sec      : Fin 8
  unit     : UnitId
  travel   : Nat
  pos      : PosState
  reported : Option GatePos
  key      : Option KeyMode
  standing : Order
  phase    : OrderPhase
  timer    : Option Nat
  link     : Option (Handle × PState)
  deriving DecidableEq, Repr

/-- The body of a DETECTOR_STATUS reply (R149). -/
structure DetectorView where
  plan      : PlanDetector
  state     : InState
  level     : Option Level
  timer     : Option Nat
  partialMark : Option Bool
  counted   : BitVec 16
  short     : BitVec 16
  occupancy : Option Occ
  deriving DecidableEq, Repr

/-- The body of a PATH_STATUS reply (R165). The window timer in seconds. -/
structure PathView where
  watch     : Watch
  level     : Nat
  danger    : Option Handle
  threshold : Nat
  timer     : Option Nat
  count     : Nat
  baseline  : Option Byte
  monitor   : Option (UnitId × LinkState)
  link      : Option (Handle × PState × Option Nat)
  last      : Option (AutoCause × Nat)
  deriving DecidableEq, Repr

/-- One item of the plan, as READ_PLAN returns it (R176). -/
inductive PlanItem where
  | road (segments : Nat)
  | unit (u : PlanUnit)
  | sec (x : PlanSection)
  | detector (d : PlanDetector)
  | path (p : PlanPath)
  deriving DecidableEq, Repr

/-- The index of a plan item within its class (R176, R177). -/
inductive PlanIndex where
  | unit (u : UnitId)
  | number (n : Nat)
  deriving DecidableEq, Repr

/-- The item classes of the plan checks (R177). -/
inductive PlanClass where
  | road | unit | gate | sec | detector | path
  deriving DecidableEq, Repr

/-- What a BAD_PLAN reply names (R177). -/
structure BadPlan where
  check  : Nat
  cls    : PlanClass
  index  : Option PlanIndex
  second : Option PlanIndex
  deriving DecidableEq, Repr

/-- The body of the DONE reply of COMMISSION (R178). -/
structure CommissionView where
  reserve   : Nat
  segments  : Nat
  sections  : Nat
  gates     : Nat
  units     : Nat
  paths     : Nat
  detectors : Nat
  deriving DecidableEq, Repr

/-- COLD, WARM_MAIN or WARM_PIN (chapter 10). -/
inductive StartCause where
  | cold | warmMain | warmPin
  deriving DecidableEq, Repr

/-- Reply bodies, one form for each that a request's rule gives. -/
inductive ReplyBody where
  | empty
  | posted (h : Handle) (state : PState) (version : Byte)
  | changed (state : PState) (version : Byte)
  | retired (state : Option PState)
  | amendedSlots (n : Nat)
  | pin (t : Nat)
  | found (view : PostingView) (current behind amended overruled : Nat) (outstanding queued : Bool)
  | walked (view : PostingView) (next : Option Nat)
  | scanned (view : ScanView)
  | described (view : DescribeView)
  | unit (view : UnitView)
  | sec (view : SectionView)
  | gate (view : GateView)
  | detector (view : DetectorView)
  | path (view : PathView)
  | sectionState (state : SecState)
  | confirmed (state : SecState) (stuck : Nat)
  | retried (pos : PosState) (phase : OrderPhase)
  | waited (seconds : Nat)
  | ahead (entries : Nat)
  | attention (flags : BitVec 14) (mode : Mode)
  | enables (flags : BitVec 14) (line : Bool)
  | mode (before : Mode)
  | flags (set : BitVec 14)
  | timeBefore (t : Nat) (valid : Bool)
  | time (t : Nat) (valid : Bool) (cause : StartCause)
  | planItem (item : Option PlanItem) (next : Option PlanIndex)
  | badPlan (fault : BadPlan)
  | commissioned (view : CommissionView)
  | blockedBySection (sec : Nat) (state : SecState)
  | blockedByQueue (places : Nat)
  | blockedByPin (h : Handle) (t : Nat)
  deriving DecidableEq, Repr

/-- A reply: result code and body (R194). -/
structure Reply where
  code : Result
  body : ReplyBody
  deriving DecidableEq, Repr

/-! ### The blocks together -/

/-- Clock and Retention Unit (chapter 10), with the supply and reset pin levels it watches. -/
structure Cru where
  passTime   : Nat
  timeValid  : Bool
  startCause : StartCause
  /-- The check word reads as its fixed value (R188, log 9). -/
  intact     : Bool
  /-- Milliseconds of the oscillator into the present second (R182). -/
  phase      : Nat
  mains      : Bool
  pinHeld    : Bool
  /-- The blocks are working: no mains loss and no reset pin has stopped them since the last start. -/
  working    : Bool
  /-- Mains was lost during the present stop, so its start is WARM_MAIN (R189, R190). -/
  mainsLost  : Bool
  deriving DecidableEq, Repr

/-- Station Port (chapter 11), but for the attention flags, which every block raises. -/
structure Port where
  state     : PortState
  reply     : Option Reply
  buffer    : List Byte
  enables   : BitVec 14
  master    : Bool
  mode      : Mode
  interval  : Nat
  /-- Host interval timer in ms; absent while stopped (R199). -/
  timer     : Option Nat
  /-- The bytes last shifted out on SPDO (R192, R202). -/
  out       : List Byte
  /-- A BUSY port became UNREAD and no transaction has ended since, so that one that ends now may have
  begun while it was BUSY (R192, log 5). -/
  overtaken : Bool
  deriving DecidableEq, Repr

/-- The blocks that work the road: PT, DE, FLC, SC, CC and PW, and the attention flags they raise. -/
structure Road where
  slots     : Vector Slot 256
  freeLines : Nat
  reserve   : Nat
  dir       : Vector (List CopySlot) 48
  awaiting  : Vector Bool 48
  queue     : List Entry
  work      : Option HeadWork
  settle    : Option Settle
  links     : Vector Link 48
  lines     : Vector Line 4
  sections  : Vector (Option SectionRec) 8
  gates     : Vector (Option GateRec) 16
  inputs    : Vector InputRec 16
  occ       : Vector (Option Occ) 8
  paths     : Vector (Option PathRec) 24
  flags     : BitVec 14
  /-- The model's own counter for free values (log 8). -/
  fresh     : Nat
  deriving DecidableEq, Repr

/-- The state of the controller, and the commands that wait. -/
structure State where
  cru     : Cru
  plan    : Plan
  part    : PartState
  port    : Port
  road    : Road
  /-- Levels on DET0..DET15. -/
  pins    : Vector Level 16
  pending : List Instr
  deriving DecidableEq, Repr

/-- No command of this part stops the machine with a fault: the spec names none. The one reason below
is raised by nothing; it keeps the type a closed list with a name in it. Safe. -/
inductive Fault where
  /-- Raised by nobody. Safe. -/
  | noneNamed
  deriving DecidableEq, Repr

/-- Why a command is refused. -/
inductive Refusal where
  /-- Raised by an arm of exec whose command has no meaning yet: none in this model. Safe. -/
  | notModelled (mnemonic : String)
  deriving DecidableEq, Repr

/-! ### Reset: the cold start that the first application of mains takes (R189, R191) -/

/-- A FREE slot after a cold start (R29). -/
def Slot.cold : Slot := { gen := 0, version := 0, posting := none }

/-- An unplanned address (R66). -/
def Link.unplanned : Link := { kind := none, state := .unplanned, misses := 0, last := none }

/-- A silent line (R66). -/
def Line.silent : Line := { pointer := none, inFlight := none, transfer := none, orders := [] }

/-- An UNUSED input (R150). -/
def InputRec.unused : InputRec :=
  { state := .unused, level := none, timer := none, partialMark := false, counted := 0, short := 0 }

/-- A detector no PLAN_DETECTOR has touched (R181). -/
def PlanDetector.unused : PlanDetector := { assign := none, minPulse := 60, stuck := 30 }

/-- The empty plan of a cold start (R181). -/
def Plan.empty : Plan :=
  { road := none, units := Vector.replicate 48 none, sections := Vector.replicate 8 none,
    detectors := Vector.replicate 16 PlanDetector.unused, paths := Vector.replicate 24 none }

/-- The road blocks with no records, an empty table and no flag set (R29, R66, R97, R138, R150,
R166). -/
def Road.cold : Road :=
  { slots := Vector.replicate 256 Slot.cold, freeLines := Config.poolLines, reserve := 0,
    dir := Vector.replicate 48 [], awaiting := Vector.replicate 48 false, queue := [], work := none,
    settle := none, links := Vector.replicate 48 Link.unplanned,
    lines := Vector.replicate 4 Line.silent, sections := Vector.replicate 8 none,
    gates := Vector.replicate 16 none, inputs := Vector.replicate 16 InputRec.unused,
    occ := Vector.replicate 8 none, paths := Vector.replicate 24 none, flags := 0, fresh := 0 }

/-- The port after a cold start (R201). -/
def Port.cold : Port :=
  { state := .ready, reply := none, buffer := [], enables := 0, master := false, mode := .attended,
    interval := 0, timer := none, out := [], overtaken := false }

/-- The controller right after its first cold start: START is set, everything else is empty. -/
def State.reset : State :=
  { cru := { passTime := 0, timeValid := false, startCause := .cold, intact := true, phase := 0,
             mains := true, pinHeld := false, working := true, mainsLost := false },
    plan := Plan.empty, part := .planning, port := Port.cold,
    road := { Road.cold with flags := 1 },
    pins := Vector.replicate 16 .low, pending := [] }

end Sys2Proof.Machine
end

