-- ==== Sys2Proof/Machine/Ops.lean ====
section
/-! DEFINITION. Named reads and writes of the records, and the orders in which they are gone through. -/

namespace Sys2Proof.Machine

/-! ### Orders -/

/-- Table order: slots 0..255. -/
def allSlots : List (Fin 256) := List.finRange 256

/-- The addresses of one line, ascending. -/
def lineUnits (l : Fin 4) : List UnitId := (List.finRange 12).map fun a => ⟨l, a⟩

/-- All unit addresses, lines before addresses. -/
def allUnits : List UnitId := (List.finRange 4).flatMap lineUnits

/-- The indexes of the entries of a list that pass a test, ascending, counted from `k`. -/
def indexesFrom {α : Type} (k : Nat) (p : α → Bool) : List α → List Nat
  | [] => []
  | x :: xs => if p x then k :: indexesFrom (k + 1) p xs else indexesFrom (k + 1) p xs

/-- The indexes of the entries of a list that pass a test, ascending. -/
def indexes {α : Type} (p : α → Bool) (l : List α) : List Nat := indexesFrom 0 p l

/-- Two inclusive segment ranges share a segment. -/
def meets (a b c d : Nat) : Bool := a ≤ d && c ≤ b

/-- Seconds as milliseconds. -/
def secMs (s : Nat) : Nat := s * 1000

/-- The whole seconds of a timer (00_scope.md "Time"). -/
def wholeSeconds (ms : Nat) : Nat := ms / 1000

/-! ### What the road blocks read of the rest: the plan, pass time and the mode -/

/-- The plan, the pass time and the mode that an event reads. -/
structure Env where
  plan : Plan
  now  : Nat
  mode : Mode
  deriving DecidableEq, Repr

/-- Segments of the road (R171); 0 while none is planned. -/
def Env.roadLen (e : Env) : Nat := e.plan.road.getD 0

/-- A planned unit. -/
def Plan.unit (p : Plan) (u : UnitId) : Option PlanUnit := vget p.units (unitIdx u)

/-- A planned section. -/
def Plan.sec (p : Plan) (i : Fin 8) : Option PlanSection := vget p.sections i

/-- A detector's plan items. -/
def Plan.detector (p : Plan) (i : Fin 16) : PlanDetector := vget p.detectors i

/-- A planned path. -/
def Plan.path (p : Plan) (i : Fin 24) : Option PlanPath := vget p.paths i

/-- The kind of a planned unit. -/
def PlanUnit.kind : PlanUnit → UnitKind
  | .sign .. => .sign
  | .gate .. => .gate
  | .monitor => .monitor

/-- The view of a SIGN or GATE unit. -/
def PlanUnit.view? : PlanUnit → Option View
  | .sign v _ => some v
  | .gate v _ _ _ => some v
  | .monitor => none

/-- The kind mask of a SIGN or GATE unit; empty for a MONITOR. -/
def PlanUnit.mask : PlanUnit → BitVec 5
  | .sign _ m => m
  | .gate _ m _ _ => m
  | .monitor => 0

/-- The gate number of a GATE unit. -/
def PlanUnit.gateNumber? : PlanUnit → Option (Fin 16)
  | .gate _ _ g _ => some g
  | _ => none

/-- Copy slots of a unit of a kind: 8 on a SIGN, 2 on a GATE, none on a MONITOR (R69). -/
def slotCount : UnitKind → Nat
  | .sign => 8
  | .gate => 2
  | .monitor => 0

/-- The lowest and highest segment of a path (R3). -/
def PlanPath.first (p : PlanPath) : Nat := p.segs.head?.getD 0
/-- The lowest and highest segment of a path (R3). -/
def PlanPath.last (p : PlanPath) : Nat := p.segs.getLast?.getD 0

/-- The threshold T[level] (R153). -/
def PlanPath.threshold (p : PlanPath) (level : Nat) : Nat := p.thresholds.getD level 0

/-- The lowest segment of a view clipped at the road end (R73, R172). -/
def View.lo (v : View) (_road : Nat) : Nat :=
  match v.dir with
  | .south => v.first
  | .north => v.first - (v.len - 1)

/-- The highest segment of a view clipped at the road end (R73, R172). -/
def View.hi (v : View) (road : Nat) : Nat :=
  match v.dir with
  | .south => min (v.first + (v.len - 1)) (road - 1)
  | .north => v.first

/-- A view meets a range of segments. -/
def View.meets (v : View) (road first last : Nat) : Bool :=
  Machine.meets (v.lo road) (v.hi road) first last

/-! ### One record at a time -/

/-- A table slot. -/
def Road.slot (r : Road) (i : Fin 256) : Slot := vget r.slots i
/-- Replace a table slot. -/
def Road.setSlot (r : Road) (i : Fin 256) (x : Slot) : Road := { r with slots := vset r.slots i x }

/-- A unit's directory records, in copy slot order. -/
def Road.dirOf (r : Road) (u : UnitId) : List CopySlot := vget r.dir (unitIdx u)
/-- Replace a unit's directory records. -/
def Road.setDirOf (r : Road) (u : UnitId) (x : List CopySlot) : Road :=
  { r with dir := vset r.dir (unitIdx u) x }
/-- Replace one directory record. -/
def Road.setCopy (r : Road) (u : UnitId) (n : Nat) (c : CopySlot) : Road :=
  r.setDirOf u ((r.dirOf u).set n c)

/-- A unit is awaiting report (R85). -/
def Road.awaits (r : Road) (u : UnitId) : Bool := vget r.awaiting (unitIdx u)
/-- Set or clear a unit's awaiting-report condition. -/
def Road.setAwaits (r : Road) (u : UnitId) (b : Bool) : Road :=
  { r with awaiting := vset r.awaiting (unitIdx u) b }

/-- A unit's link record. -/
def Road.link (r : Road) (u : UnitId) : Link := vget r.links (unitIdx u)
/-- Replace a unit's link record. -/
def Road.setLink (r : Road) (u : UnitId) (x : Link) : Road :=
  { r with links := vset r.links (unitIdx u) x }
/-- A unit is ONLINE (R47). -/
def Road.online (r : Road) (u : UnitId) : Bool := (r.link u).state == .online

/-- A field line. -/
def Road.line (r : Road) (l : Fin 4) : Line := vget r.lines l
/-- Replace a field line. -/
def Road.setLine (r : Road) (l : Fin 4) (x : Line) : Road := { r with lines := vset r.lines l x }

/-- A section record. -/
def Road.sec (r : Road) (i : Fin 8) : Option SectionRec := vget r.sections i
/-- The state of a section. -/
def Road.secState (r : Road) (i : Fin 8) : Option SecState := (r.sec i).map SectionRec.state
/-- Replace a section record. -/
def Road.setSec (r : Road) (i : Fin 8) (x : SectionRec) : Road :=
  { r with sections := vset r.sections i (some x) }

/-- A gate record. -/
def Road.gate (r : Road) (g : Fin 16) : Option GateRec := vget r.gates g
/-- Replace a gate record. -/
def Road.setGate (r : Road) (g : Fin 16) (x : GateRec) : Road :=
  { r with gates := vset r.gates g (some x) }

/-- A detector input record. -/
def Road.input (r : Road) (i : Fin 16) : InputRec := vget r.inputs i
/-- Replace a detector input record. -/
def Road.setInput (r : Road) (i : Fin 16) (x : InputRec) : Road :=
  { r with inputs := vset r.inputs i x }

/-- A section's occupancy record. -/
def Road.occOf (r : Road) (i : Fin 8) : Option Occ := vget r.occ i
/-- Replace a section's occupancy record. -/
def Road.setOcc (r : Road) (i : Fin 8) (x : Occ) : Road := { r with occ := vset r.occ i (some x) }

/-- A path record. -/
def Road.path (r : Road) (p : Fin 24) : Option PathRec := vget r.paths p
/-- The watch state of a path. -/
def Road.watchOf (r : Road) (p : Fin 24) : Option Watch := (r.path p).map PathRec.watch
/-- Replace a path record. -/
def Road.setPath (r : Road) (p : Fin 24) (x : PathRec) : Road :=
  { r with paths := vset r.paths p (some x) }

/-- What an event of this state reads of the plan, the clock and the mode. -/
def State.env (s : State) : Env := { plan := s.plan, now := s.cru.passTime, mode := s.port.mode }

end Sys2Proof.Machine
end

