-- ==== Sys2Proof/Machine/Flags.lean ====
section
/-! DEFINITION. The attention flags, the attention line, the reply-ready line and the port status
byte (R192, R194, R196, R202). -/

namespace Sys2Proof.Machine

/-- The bit place of a flag, in the order of R196 (R202). -/
def Flag.place : Flag → Nat
  | .start => 0 | .unitLost => 1 | .unitBack => 2 | .gateFault => 3 | .gateLocal => 4
  | .sectionChange => 5 | .sweepOverdue => 6 | .pathTrip => 7 | .pathSilent => 8
  | .amendMerged => 9 | .amendDiscarded => 10 | .detectorFault => 11 | .postingExpired => 12
  | .hostSilent => 13

/-- The set that holds one flag. -/
def Flag.bit (f : Flag) : BitVec 14 := BitVec.ofNat 14 (2 ^ f.place)

/-- A flag stands in a set. -/
def hasFlag (set : BitVec 14) (f : Flag) : Bool := set.getLsbD f.place

/-- Set a flag; one already set stays set (R196). -/
def Road.raise (r : Road) (f : Flag) : Road := { r with flags := r.flags ||| f.bit }

/-- The attention line: the master enable is on and a flag that is set is enabled (R196). -/
def attentionLine (s : State) : Bool := s.port.master && (s.road.flags &&& s.port.enables) != 0

/-- The reply-ready line: asserted exactly while the port is UNREAD (R194). -/
def replyReady (s : State) : Bool := s.port.state == .unread

/-- The port status byte (R202). -/
def PortState.status : PortState → Byte
  | .ready => 0x01
  | .busy => 0x02
  | .unread => 0x03

end Sys2Proof.Machine
end

