-- ==== Sys2Proof/Machine/Table.lean ====
section
/-! DEFINITION. The Posting Table's records: handles, taking and freeing slots, marking copies, and
the ranking order (chapter 1, R33). -/

namespace Sys2Proof.Machine

/-- The posting a handle names: its slot is not FREE and holds that generation (R2, R69). -/
def Road.named (r : Road) (h : Handle) : Option Posting :=
  if (r.slot h.slot).gen = h.gen then (r.slot h.slot).posting else none

/-- The state of the posting a handle names. -/
def Road.namedState (r : Road) (h : Handle) : Option PState := (r.named h).map (·.state)

/-- The present version in a handle's slot (R4). -/
def Road.version (r : Road) (h : Handle) : Byte := (r.slot h.slot).version

/-- The handle a slot has now: the slot with its generation (R1). -/
def Road.handleAt (r : Road) (i : Fin 256) : Handle := ⟨i, (r.slot i).gen⟩

/-- Replace the posting in a slot, keeping generation and version. -/
def Road.setPosting (r : Road) (i : Fin 256) (p : Posting) : Road :=
  r.setSlot i { r.slot i with posting := some p }

/-- Raise a slot's version by one, modulo 256 (R4). -/
def Road.bumpVersion (r : Road) (i : Fin 256) : Road :=
  r.setSlot i { r.slot i with version := (r.slot i).version + 1 }

/-- The lowest-numbered FREE slot (R1). -/
def Road.lowestFree (r : Road) : Option (Fin 256) :=
  allSlots.find? fun i => (r.slot i).posting.isNone

/-- Take a FREE slot for a posting: generation and version rise by one, and its text takes its lines
(R1, R4, R6). -/
def Road.occupy (r : Road) (i : Fin 256) (p : Posting) : Road :=
  { r.setSlot i { gen := (r.slot i).gen + 1, version := (r.slot i).version + 1, posting := some p }
      with freeLines := r.freeLines - p.text.length }

/-- The postings of the table, in slot order. -/
def Road.postings (r : Road) : List (Fin 256 × Posting) :=
  allSlots.filterMap fun i => (r.slot i).posting.map fun p => (i, p)

/-- How many postings pass a test. -/
def Road.countPostings (r : Road) (f : Posting → Bool) : Nat :=
  (r.postings.filter fun x => f x.2).length

/-- FREE slots of the table (R8). -/
def Road.freeSlots (r : Road) : Nat := Config.capacity - r.countPostings fun _ => true

/-- The unused reserve: the reserve minus the AUTO and FIELD postings (R8). -/
def Road.unusedReserve (r : Road) : Nat := r.reserve - r.countPostings (·.authority != .station)

/-! ### Copies of a posting -/

/-- The handle a directory record holds (R69). -/
def CopySlot.handle? : CopySlot → Option Handle
  | .current h _ | .behind h _ | .amended h _ | .overruled h _ => some h
  | .empty | .unknown => none

/-- A directory record is AMENDED. -/
def CopySlot.isAmended : CopySlot → Bool
  | .amended _ _ => true
  | _ => false

/-- A directory record is OVERRULED. -/
def CopySlot.isOverruled : CopySlot → Bool
  | .overruled _ _ => true
  | _ => false

/-- A record is AMENDED and names a handle. -/
def CopySlot.amendedFor (h : Handle) (c : CopySlot) : Bool := c.isAmended && c.handle? == some h

/-- Some copy slot of the directory names a handle (R14). UNKNOWN and EMPTY slots name nothing. -/
def Road.heldByCopy (r : Road) (h : Handle) : Bool :=
  allUnits.any fun u => (r.dirOf u).any fun c => c.handle? == some h

/-- How many directory records pass a test. -/
def Road.countCopies (r : Road) (f : CopySlot → Bool) : Nat :=
  (allUnits.flatMap fun u => (r.dirOf u).filter f).length

/-- AMENDED copy slots naming a handle (R24). -/
def Road.amendedCopies (r : Road) (h : Handle) : Nat := r.countCopies (CopySlot.amendedFor h)

/-- The marking of one copy slot (R17). -/
def CopySlot.marked (h : Handle) (overrule : Bool) (c : CopySlot) : CopySlot :=
  if c.handle? = some h then
    match c with
    | .current h v => .behind h v
    | .amended h b => if overrule then .overruled h b else .amended h b
    | c => c
  else c

/-- Mark a posting's copy slots in the directory (R17). -/
def Road.markCopies (r : Road) (h : Handle) (overrule : Bool) : Road :=
  { r with dir := vofFn fun i => (vget r.dir i).map (CopySlot.marked h overrule) }

/-! ### Freeing (R14) -/

/-- A posting entry for a handle stands in the queue, the head included (R14, R23). -/
def Road.queued (r : Road) (h : Handle) : Bool := r.queue.contains (.posting h)

/-- Drop a freed posting's handle from the path and gate links (R14, R18, R19). -/
def Road.clearLinks (r : Road) (h : Handle) : Road :=
  { r with
    paths := vofFn fun i => (vget r.paths i).map fun p =>
      if p.link = some h then { p with link := none } else p
    gates := vofFn fun i => (vget r.gates i).map fun g =>
      if g.link = some h then { g with link := none } else g }

/-- Free the posting in a slot: its lines return to the pool, generation and version stay, and an
AUTO or FIELD closure's link clears (R14). -/
def Road.free (r : Road) (i : Fin 256) : Road :=
  match (r.slot i).posting with
  | none => r
  | some p =>
    let freed := { r.setSlot i { r.slot i with posting := none } with
      freeLines := r.freeLines + p.text.length }
    if p.authority = .station then freed else freed.clearLinks (r.handleAt i)

/-- The freeing test of one slot (R14). -/
def Road.freeable (r : Road) (i : Fin 256) : Bool :=
  match (r.slot i).posting with
  | none => false
  | some p => p.state == .retiring && !r.queued (r.handleAt i) && !r.heldByCopy (r.handleAt i)

/-- Free one slot if it passes the freeing test. -/
def Road.freeIf (r : Road) (i : Fin 256) : Road := if r.freeable i then r.free i else r

/-- PT's freeing test of every RETIRING posting (R14). -/
def Road.freeTest (r : Road) : Road := allSlots.foldl Road.freeIf r

/-! ### Kinds, masks and the ranking order (R33) -/

/-- The place of a kind in kind order (1.1). -/
def PKind.rank : PKind → Nat
  | .closure => 0
  | .danger => 1
  | .restriction => 2
  | .limit => 3
  | .notice => 4

/-- A kind stands in a kind mask. -/
def inMask (mask : BitVec 5) (k : PKind) : Bool := mask.getLsbD k.rank

/-- The distance of a posting from a reference segment in a direction (R33). -/
def distance (ref : Nat) (dir : Dir) (p : Posting) : Nat :=
  match dir with
  | .south => p.first - ref
  | .north => ref - p.last

/-- `a` ranks before `b` (R33): severity, kind, nearness, slot. -/
def ranksBefore (ref : Nat) (dir : Dir) (a b : Fin 256 × Posting) : Bool :=
  if a.2.severity ≠ b.2.severity then b.2.severity < a.2.severity
  else if a.2.kind ≠ b.2.kind then a.2.kind.rank < b.2.kind.rank
  else if distance ref dir a.2 ≠ distance ref dir b.2 then
    distance ref dir a.2 < distance ref dir b.2
  else a.1.val < b.1.val

/-- Put a posting in its place in a ranked list. -/
def rankInsert (ref : Nat) (dir : Dir) (x : Fin 256 × Posting) :
    List (Fin 256 × Posting) → List (Fin 256 × Posting)
  | [] => [x]
  | y :: ys => if ranksBefore ref dir x y then x :: y :: ys else y :: rankInsert ref dir x ys

/-- A list of postings in ranking order (R33). -/
def ranked (ref : Nat) (dir : Dir) : List (Fin 256 × Posting) → List (Fin 256 × Posting)
  | [] => []
  | x :: xs => rankInsert ref dir x (ranked ref dir xs)

end Sys2Proof.Machine
end

