-- ==== Sys2Proof/Machine/Queue.lean ====
section
/-! DEFINITION. The distribution queue and its head entry: appending and coalescing, starting,
working through the two phases, leaving, and the next transfer a line takes (chapter 4). -/

namespace Sys2Proof.Machine

/-! ### Starting, turning and leaving (R77, R80, R84, R85) -/

/-- The AMENDED copy slots of a unit that pass a test, as fetch items in slot order. -/
def Road.fetchItems (r : Road) (f : CopySlot → Bool) (u : UnitId) : List FetchItem :=
  if r.online u then (indexes f (r.dirOf u)).map fun n => { unit := u, slot := n, ended := false }
  else []

/-- The fetch set of a posting entry: every AMENDED slot of an ONLINE unit naming its handle, line by
line in address order (R77). -/
def Road.fetchSetFor (r : Road) (h : Handle) : List FetchItem :=
  allUnits.flatMap (r.fetchItems (CopySlot.amendedFor h))

/-- The work of an entry that has just been started. -/
def HeadWork.begin (items : List FetchItem) : HeadWork :=
  { phase := .fetch, fetch := items, affected := [], ended := [] }

/-- A unit's view meets the span of the posting a handle names, as it stands (R80). -/
def viewMeets (e : Env) (u : UnitId) (p : Posting) : Bool :=
  match (e.plan.unit u).bind PlanUnit.view? with
  | some v => v.meets e.roadLen p.first p.last
  | none => false

/-- A unit is affected by a posting entry: some slot names the handle, or its view meets the span
(R80). -/
def Road.concerns (e : Env) (r : Road) (h : Handle) (u : UnitId) : Bool :=
  ((r.dirOf u).any fun c => c.handle? == some h) || (r.named h).any (viewMeets e u)

/-- The affected units of an entry, fixed as its reconcile phase begins (R80, R85). Only SIGN and GATE
units have copy slots. -/
def Road.affectedUnits (e : Env) (r : Road) (en : Entry) (w : HeadWork) : List UnitId :=
  match en with
  | .posting h =>
    allUnits.filter fun u =>
      r.online u && !(r.dirOf u).isEmpty && !w.ended.contains u && r.concerns e h u
  | .unit u => if r.online u && !w.ended.contains u then [u] else []
  | .marker => []

/-- The head entry leaves the queue, the settle marker too, and PT tests every RETIRING posting for
freeing (R14, R84, R93). -/
def Road.leave (r : Road) : Road :=
  Road.freeTest { r with queue := r.queue.tail, work := none }

/-- One change of the head entry that needs no transfer: it is started, its reconcile phase begins,
it leaves, or the settle marker completes (R77, R80, R84, R85, R93). None when the head stands. -/
def headStep (e : Env) (r : Road) : Option Road :=
  match r.queue, r.work with
  | [], _ => none
  | .marker :: _, _ => some (Road.leave { r with settle := none })
  | .posting h :: _, none => some { r with work := some (HeadWork.begin (r.fetchSetFor h)) }
  | .unit u :: _, none =>
    if r.online u then
      some { r with work := some (HeadWork.begin (r.fetchItems CopySlot.isAmended u)) }
    else some r.leave
  | en :: _, some w =>
    match w.phase with
    | .fetch =>
      if w.fetch.all (·.ended) then
        some { r with work := some { w with phase := .reconcile
                                            affected := r.affectedUnits e en w } }
      else none
    | .reconcile => if w.affected.all (w.ended.contains ·) then some r.leave else none

/-- Carry the head of the queue on while it needs no transfer, at most `fuel` changes. -/
def advance (e : Env) : Nat → Road → Road
  | 0, r => r
  | fuel + 1, r =>
    match headStep e r with
    | some r' => advance e fuel r'
    | none => r

/-- Carry the head on as far as it goes in this event. An entry takes at most three changes. -/
def Road.pump (e : Env) (r : Road) : Road := advance e (3 * r.queue.length + 3) r

/-! ### Appending (R75) -/

/-- A not-yet-started entry for the same posting or unit stands with no settle marker behind it
(R75). The head is started. -/
def Road.coalesces (r : Road) (en : Entry) : Bool :=
  (r.queue.tail.reverse.takeWhile (· != .marker)).contains en

/-- Append an entry at the tail, or coalesce it (R75). An entry that becomes the head is started
(R74). -/
def Road.append (e : Env) (en : Entry) (r : Road) : Road :=
  if r.coalesces en then r else Road.pump e { r with queue := r.queue ++ [en] }

/-- Append the settle marker; it never coalesces (R92). -/
def Road.appendMarker (e : Env) (timeout : Nat) (r : Road) : Road :=
  Road.pump e { r with queue := r.queue ++ [.marker], settle := some { ms := 0, timeout := timeout } }

/-- The entries that stand ahead of the settle marker (R94). -/
def aheadOfMarker (q : List Entry) : List Entry := q.takeWhile (· != .marker)

/-- The queue without its settle marker: entries behind it coalesce into equal not-yet-started
entries ahead of it (R96). -/
def withoutMarker (q : List Entry) : List Entry :=
  let ahead := aheadOfMarker q
  ahead ++ (q.drop (ahead.length + 1)).filter fun en => !ahead.tail.contains en

/-- Take the settle marker out and stop the settle timer (R94, R95). -/
def Road.dropMarker (e : Env) (r : Road) : Road :=
  if r.queue.contains .marker then
    Road.pump e { r with queue := withoutMarker r.queue, settle := none }
  else { r with settle := none }

/-! ### A unit's part in the head entry (R83) -/

/-- End a unit's part in the head entry. -/
def Road.endPart (r : Road) (u : UnitId) : Road :=
  { r with work := r.work.map fun w => { w with ended := u :: w.ended } }

/-- Count the fetch items that pass a test as ended (R78). -/
def Road.endFetch (r : Road) (f : FetchItem → Bool) : Road :=
  { r with work := r.work.map fun w =>
      { w with fetch := w.fetch.map fun it => if f it then { it with ended := true } else it } }

/-! ### The wanted set and the next item of a unit (R73, R81, R82) -/

/-- ACTIVE postings that meet a view and whose kind is in its mask, in ranking order (R73). -/
def Road.qualified (r : Road) (road : Nat) (v : View) (mask : BitVec 5) :
    List (Fin 256 × Posting) :=
  ranked v.first v.dir (r.postings.filter fun x =>
    x.2.state == .active && v.meets road x.2.first x.2.last && inMask mask x.2.kind)

/-- The wanted set of a unit with `k` copy slots, best first, as handles (R73). -/
def Road.wanted (e : Env) (r : Road) (u : UnitId) : List Handle :=
  match e.plan.unit u with
  | some pu =>
    match pu.view? with
    | some v => ((r.qualified e.roadLen v pu.mask).take (slotCount pu.kind)).map
        fun x => r.handleAt x.1
    | none => []
  | none => []

/-- Whether a record may be replaced or cleared: CURRENT, BEHIND or OVERRULED (R81, R82). -/
def CopySlot.replaceable : CopySlot → Bool
  | .current _ _ | .behind _ _ | .overruled _ _ => true
  | .empty | .amended _ _ | .unknown => false

/-- Whether a record is due an update: BEHIND or OVERRULED (R81). -/
def CopySlot.updatable : CopySlot → Bool
  | .behind _ _ | .overruled _ _ => true
  | .empty | .current _ _ | .amended _ _ | .unknown => false

/-- A record names one of some postings. -/
def CopySlot.namesOneOf (hs : List Handle) (c : CopySlot) : Bool :=
  c.handle?.any (hs.contains ·)

/-- The image of the posting a handle names, as it stands (R56, R81). -/
def Road.image (r : Road) (h : Handle) : Option Image :=
  (r.named h).map fun p =>
    { handle := h, version := r.version h, kind := p.kind, first := p.first, last := p.last,
      severity := p.severity, detail := p.detail, urgency := p.urgency, text := p.text }

/-- A load and commit of a posting's present image into a slot (R56, R81). -/
def Road.loadInto (r : Road) (u : UnitId) (n : Nat) (h : Handle) : Option Transfer :=
  (r.image h).map fun im =>
    { addr := u.addr, kind := .load im, slot := n,
      overrule := ((r.dirOf u).getD n .unknown).isOverruled, step := .load, tries := 0 }

/-- The update due to a unit (R81, item 1). -/
def Road.update (r : Road) (u : UnitId) (want : List Handle) : Option Transfer :=
  match (indexes (fun c => CopySlot.updatable c && c.namesOneOf want) (r.dirOf u)).head? with
  | some n => (((r.dirOf u).getD n .unknown).handle?).bind (r.loadInto u n)
  | none => none

/-- The victim class of R82 that a handle falls into. R82 gives a PENDING posting none: the model never
makes it a victim (log 35). -/
def Road.victimClass (e : Env) (r : Road) (u : UnitId) (h : Handle) : Nat :=
  match r.named h with
  | none => 1
  | some p =>
    match p.state with
    | .retiring => 2
    | .active =>
      if viewMeets e u p && (e.plan.unit u).any (fun pu => inMask pu.mask p.kind) then 4 else 3
    | .pending => 5

/-- The victim of a placement (R82): by class, lowest slot first in classes 1 to 3, lowest-ranked
first in class 4. Only replaceable records that name no wanted posting are looked at. -/
def Road.victim (e : Env) (r : Road) (u : UnitId) (want : List Handle) : Option Nat :=
  let ofClass := fun k => (indexes (fun c => CopySlot.replaceable c && !c.namesOneOf want &&
    c.handle?.any (fun h => r.victimClass e u h == k)) (r.dirOf u)).head?
  let lowestRanked : Option Nat :=
    match e.plan.unit u with
    | some pu =>
      match pu.view? with
      | some v =>
        ((r.qualified e.roadLen v pu.mask).reverse.filterMap fun x =>
          (indexes (fun c => CopySlot.replaceable c && !c.namesOneOf want &&
            c.handle? == some (r.handleAt x.1)) (r.dirOf u)).head?).head?
      | none => none
    | none => none
  ((ofClass 1).orElse fun _ => ofClass 2).orElse fun _ => (ofClass 3).orElse fun _ => lowestRanked

/-- The placement due to a unit (R81, item 2): the best wanted posting it does not hold, into the
lowest EMPTY slot or a victim. -/
def Road.placement (e : Env) (r : Road) (u : UnitId) (want : List Handle) : Option Transfer :=
  match want.find? fun h => !(r.dirOf u).any fun c => c.handle? == some h with
  | some h =>
    match ((indexes (· == .empty) (r.dirOf u)).head?).orElse fun _ => r.victim e u want with
    | some n => r.loadInto u n h
    | none => none
  | none => none

/-- The clear due to a unit (R81, item 3). -/
def Road.clearing (r : Road) (u : UnitId) (want : List Handle) : Option Transfer :=
  (indexes (fun c => CopySlot.replaceable c && !c.namesOneOf want) (r.dirOf u)).head?.map fun n =>
    { addr := u.addr, kind := .clear, slot := n,
      overrule := ((r.dirOf u).getD n .unknown).isOverruled, step := .clear, tries := 0 }

/-- A unit's next transfer in the reconcile phase, found afresh (R81). -/
def Road.nextItem (e : Env) (r : Road) (u : UnitId) : Option Transfer :=
  let want := r.wanted e u
  ((r.update u want).orElse fun _ => r.placement e u want).orElse fun _ => r.clearing u want

/-! ### What a line takes at a work opportunity (R51, R78, R80, R81) -/

/-- What the head entry has for a line: a transfer, nothing for now, or (after units or slots were
passed over) a changed state to look at again. -/
inductive Offer where
  | take (t : Transfer)
  | wait
  | changed (r : Road)

/-- A slot of the fetch set is passed over: its unit is not ONLINE or its part has ended, or the slot
is no longer AMENDED for the entry (R78). -/
def Road.passedOver (r : Road) (en : Entry) (w : HeadWork) (it : FetchItem) : Bool :=
  !r.online it.unit || w.ended.contains it.unit ||
    match en with
    | .posting h => !((r.dirOf it.unit).getD it.slot .unknown).amendedFor h
    | _ => !((r.dirOf it.unit).getD it.slot .unknown).isAmended

/-- The fetch of an item of the fetch set (R62, R78). -/
def Road.fetchOf (r : Road) (it : FetchItem) : Option Transfer :=
  ((r.dirOf it.unit).getD it.slot .unknown).handle?.map fun h =>
    { addr := it.unit.addr, kind := .fetch h, slot := it.slot, overrule := false, step := .fetch,
      tries := 0 }

/-- Find a line's next fetch among its items in order (R78). -/
def Road.offerFetch (e : Env) (en : Entry) (w : HeadWork) :
    List FetchItem → Road → Bool → Offer
  | [], r, moved => if moved then .changed (r.pump e) else .wait
  | it :: rest, r, moved =>
    if r.passedOver en w it then
      Road.offerFetch e en w rest
        (r.endFetch fun x => x.unit == it.unit && x.slot == it.slot) true
    else if r.awaits it.unit then (if moved then .changed r else .wait)
    else
      match r.fetchOf it with
      | some t => if moved then .changed r else .take t
      | none => .wait

/-- Find a line's next transfer among its affected units in address order (R80, R81). A unit that is
not ONLINE, or has no item, is finished. -/
def Road.offerReconcile (e : Env) : List UnitId → Road → Bool → Offer
  | [], r, moved => if moved then .changed (r.pump e) else .wait
  | u :: rest, r, moved =>
    if !r.online u then Road.offerReconcile e rest (r.endPart u) true
    else if r.awaits u then (if moved then .changed r else .wait)
    else
      match r.nextItem e u with
      | some t => if moved then .changed r else .take t
      | none => Road.offerReconcile e rest (r.endPart u) true

/-- What the head entry has for line `l` (R51). -/
def Road.offer (e : Env) (r : Road) (l : Fin 4) : Offer :=
  match r.queue, r.work with
  | en :: _, some w =>
    match w.phase with
    | .fetch =>
      Road.offerFetch e en w (w.fetch.filter fun it => it.unit.line == l && !it.ended) r false
    | .reconcile =>
      Road.offerReconcile e (w.affected.filter fun u => u.line == l && !w.ended.contains u) r false
  | _, _ => .wait

/-- The transfer a line takes at a work opportunity, if any, and the state with what was passed over
on the way (R51, R78, R80). Looking again goes on to the next head entry when the head has left
(log 13). -/
def takeTransfer (e : Env) (l : Fin 4) : Nat → Road → Road × Option Transfer
  | 0, r => (r, none)
  | fuel + 1, r =>
    match r.offer e l with
    | .take t => (r, some t)
    | .wait => (r, none)
    | .changed r' => takeTransfer e l fuel r'

/-- Looks enough for every entry of the queue: each look either ends or finishes the line's part in
one phase of the head. -/
def Road.looks (r : Road) : Nat := 4 * r.queue.length + 4

end Sys2Proof.Machine
end

