-- ==== Sys2Proof/Machine/Sections.lean ====
section
/-! DEFINITION. Section Control: coverage, readiness, the section state machine, gate orders, and the
travel of gates (chapter 6). -/

namespace Sys2Proof.Machine

/-- All section numbers, ascending. -/
def allSections : List (Fin 8) := List.finRange 8
/-- All gate numbers, ascending. -/
def allGates : List (Fin 16) := List.finRange 16

/-! ### Coverage and readiness (R115, R119) -/

/-- A posting is an ACTIVE CLOSURE whose span meets a section's segments (R115). -/
def closes (x : PlanSection) (p : Posting) : Bool :=
  p.state == .active && p.kind == .closure && meets p.first p.last x.first x.last

/-- A section is covered (R115). -/
def Road.covered (e : Env) (r : Road) (i : Fin 8) : Bool :=
  (e.plan.sec i).any fun x => r.postings.any fun p => closes x p.2

/-- A section is covered at once (R115). -/
def Road.coveredAtOnce (e : Env) (r : Road) (i : Fin 8) : Bool :=
  (e.plan.sec i).any fun x =>
    r.postings.any fun p => closes x p.2 && p.2.urgency == some .immediate

/-- A CURRENT record names an ACTIVE CLOSURE that meets a section (R119). -/
def Road.showsClosure (r : Road) (x : PlanSection) (c : CopySlot) : Bool :=
  match c with
  | .current h _ => (r.named h).any (closes x)
  | _ => false

/-- An approach unit is ready for a section (R119). -/
def Road.unitReady (r : Road) (x : PlanSection) (u : UnitId) : Bool :=
  match (r.link u).state with
  | .seeking | .lost => true
  | .online | .unplanned => (r.dirOf u).any (r.showsClosure x)

/-- A section is ready: every unit of its approach list is (R119). -/
def Road.ready (e : Env) (r : Road) (i : Fin 8) : Bool :=
  (e.plan.sec i).all fun x => x.approach.all (r.unitReady x)

/-! ### Gate orders (R54, R128) -/

/-- The line's exchange in flight is a GATE_ORDER to an address. -/
def Line.orderInFlight (x : Line) (a : Fin 12) : Bool :=
  x.inFlight.any fun ex => ex.addr == a && match ex.sent with
    | .gateOrder _ => true
    | .poll | .work => false

/-- Section Control makes an order: a fresh entry at the tail, or a new direction in the gate's entry
(R54). An entry in flight is marked replaced (R55, log 21). -/
def Line.makeOrder (x : Line) (a : Fin 12) (d : Order) : Line :=
  if x.orders.any (·.addr == a) then
    { x with orders := x.orders.map fun o =>
        if o.addr = a then
          { o with dir := d, replaced := x.orderInFlight a, withdrawn := false }
        else o }
  else
    { x with orders := x.orders ++ [{ addr := a, dir := d, replaced := false, withdrawn := false }] }

/-- Section Control withdraws an order: removed at once, or marked when in flight (R54). -/
def Line.withdrawOrder (x : Line) (a : Fin 12) : Line :=
  if x.orderInFlight a then
    { x with orders := x.orders.map fun o => if o.addr = a then { o with withdrawn := true } else o }
  else { x with orders := x.orders.filter fun o => o.addr != a }

/-- A reported position as a position state (R127). -/
def posOfReport : GatePos → PosState
  | .isOpen => .isOpen
  | .closed => .closed
  | .moving => .moving
  | .fault => .fault

/-- The ordered position of a standing order (R126). -/
def Order.position : Order → GatePos
  | .toOpen => .isOpen
  | .toClose => .closed

/-- The position state a gate takes from its last report; unchanged while there is none. -/
def GateRec.posFromReport (x : GateRec) : PosState :=
  match x.reported with
  | some p => posOfReport p
  | none => x.pos

/-- A gate takes a position state: GATE_FAULT is set where it goes to FAULT, and not where it only stays
there (R127, R132, R196). -/
def Road.flagFault (stays : Bool) (after : PosState) (r : Road) : Road :=
  if after = .fault ∧ stays = false then r.raise .gateFault else r

/-- The position state with which a gate's order is made: a jam gives way to the reported position
(R128). -/
def GateRec.posOrdered (x : GateRec) : PosState := if x.pos = .jammed then x.posFromReport else x.pos

/-- Make a gate's order in the direction of its standing order: PENDING, the travel timer stops, a
jam gives way to the reported position, and the line takes the order (R128). -/
def Road.makeOrder (r : Road) (g : Fin 16) : Road :=
  match r.gate g with
  | none => r
  | some x =>
    let x' := { x with phase := .pending, timer := none, pos := x.posOrdered }
    ((r.setGate g x').flagFault (x.pos == .fault) x.posOrdered).setLine x.unit.line
      ((r.line x.unit.line).makeOrder x.unit.addr x.standing)

/-- Change a gate's standing order (R128): nothing when it already holds; otherwise the order is made
in REMOTE at a known position, and else only recorded. -/
def Road.setStanding (d : Order) (r : Road) (g : Fin 16) : Road :=
  match r.gate g with
  | none => r
  | some x =>
    if x.standing = d then r
    else if x.key = some .remote ∧ x.pos ≠ .unknown then
      (r.setGate g { x with standing := d }).makeOrder g
    else r.setGate g { x with standing := d, phase := .idle, timer := none }

/-- The entry gates of a section. -/
def sectionGates (e : Env) (i : Fin 8) : List (Fin 16) := ((e.plan.sec i).map (·.gates)).getD []

/-- Every entry gate of a section has a position state (R120, R125). -/
def Road.gatesAt (e : Env) (r : Road) (i : Fin 8) (p : PosState) : Bool :=
  (sectionGates e i).all fun g => (r.gate g).any (·.pos == p)

/-! ### The section state machine (R116 to R125) -/

/-- Put a section in a state, its timers stopped and SECTION_CHANGE set (R114, R116). -/
def Road.enter (i : Fin 8) (st : SecState) (r : Road) : Road :=
  (r.setSec i { state := st, notice := none, sweepMin := none, sweepOver := none,
                overdue := false }).raise .sectionChange

/-- The sweep test: a section in SWEEP whose minimum has run and whose occupancy is KNOWN zero enters
CLOSED when covered and CLEARABLE when not (R122). -/
def Road.sweepTest (e : Env) (i : Fin 8) (r : Road) : Road :=
  match r.sec i with
  | some x =>
    if x.state = .sweep ∧ x.sweepMin = none ∧ r.occOf i = some (.known 0) then
      r.enter i (if r.covered e i then .closed else .clearable)
    else r
  | none => r

/-- A section enters SWEEP: both timers start, the overdue mark clears, and a sweep minimum of 0 has
run at once (R122). -/
def Road.enterSweep (e : Env) (i : Fin 8) (r : Road) : Road :=
  let minimum := ((e.plan.sec i).map (·.sweepMin)).getD 0
  Road.sweepTest e i
    ((r.setSec i { state := .sweep, notice := none,
                   sweepMin := if minimum = 0 then none else some 0,
                   sweepOver := some 0, overdue := false }).raise .sectionChange)

/-- The section tests made when a gate changes position state: SHUTTING with every entry gate CLOSED
enters SWEEP (R120), OPENING with every entry gate OPEN enters OPEN (R125). -/
def Road.gateTest (e : Env) (i : Fin 8) (r : Road) : Road :=
  match r.secState i with
  | some .shutting => if r.gatesAt e i .closed then r.enterSweep e i else r
  | some .opening => if r.gatesAt e i .isOpen then r.enter i .isOpen else r
  | _ => r

/-- A section enters SHUTTING: every entry gate's standing order becomes CLOSE, in the order of the
plan's entry gate list (log 33), and the gates are tested (R120). -/
def Road.enterShutting (e : Env) (i : Fin 8) (r : Road) : Road :=
  Road.gateTest e i
    ((sectionGates e i).foldl (Road.setStanding .toClose) (r.enter i .shutting))

/-- The lead time L and the notice wait W of a section, in ms (R118). -/
def leadMs (e : Env) (i : Fin 8) : Nat := secMs (((e.plan.sec i).map (·.lead)).getD 0)
/-- The lead time L and the notice wait W of a section, in ms (R118). -/
def waitMs (e : Env) (i : Fin 8) : Nat := secMs (((e.plan.sec i).map (·.wait)).getD 0)

/-- The readiness test of a section in NOTICE whose lead time has run: SHUTTING if ready (R118,
R119). -/
def Road.readyTest (e : Env) (i : Fin 8) (r : Road) : Road :=
  match r.sec i with
  | some x =>
    if x.state = .notice ∧ leadMs e i ≤ x.notice.getD 0 ∧ r.ready e i = true then
      r.enterShutting e i
    else r
  | none => r

/-- The readiness tests of an event that may have changed a directory record or a link state (R119).
A test that finds nothing changed changes nothing. Sections made ready by one event enter SHUTTING in
ascending number (log 33). -/
def Road.readyTests (e : Env) (r : Road) : Road :=
  allSections.foldl (fun r i => r.readyTest e i) r

/-- A section in NOTICE has its notice timer at L: ready or, with W = 0, in any case, it enters
SHUTTING (R118). -/
def Road.leadRun (e : Env) (i : Fin 8) (r : Road) : Road :=
  if r.ready e i ∨ waitMs e i = 0 then r.enterShutting e i else r

/-- A section enters NOTICE, its timer at zero; a lead time of 0 has run at once (R117, R118). -/
def Road.enterNotice (e : Env) (i : Fin 8) (r : Road) : Road :=
  let r := (r.setSec i { state := .notice, notice := some 0, sweepMin := none, sweepOver := none,
                         overdue := false }).raise .sectionChange
  if leadMs e i = 0 then r.leadRun e i else r

/-- What a coverage notice does to a section, by its state (R115, R117, R118, R123, R125). -/
def Road.coverageOf (e : Env) (r : Road) (i : Fin 8) : Road :=
  match r.secState i with
  | some .isOpen =>
    if r.coveredAtOnce e i then r.enterShutting e i
    else if r.covered e i then r.enterNotice e i else r
  | some .notice =>
    if !r.covered e i then r.enter i .isOpen
    else if r.coveredAtOnce e i then r.enterShutting e i else r.readyTest e i
  | some .closed => if r.covered e i then r else r.enter i .clearable
  | some .clearable => if r.covered e i then r.enter i .closed else r
  | some .opening => if r.covered e i then r.enterShutting e i else r
  | some .shutting | some .sweep | none => r

/-- PT's coverage notice: every section it names re-reads its coverage (R16, R115), in ascending
section number (log 33). -/
def Road.coverageNoticeTo (e : Env) (names : PlanSection → Bool) (r : Road) : Road :=
  allSections.foldl (fun r i => if (e.plan.sec i).any names then r.coverageOf e i else r) r

/-- PT's coverage notice for a span: it names every section the span meets (R16). -/
def Road.coverageNotice (e : Env) (first last : Nat) (r : Road) : Road :=
  r.coverageNoticeTo e fun x => meets first last x.first x.last

/-! ### Outcomes and travel (R129, R130) -/

/-- A line hands on the outcome of a GATE_ORDER: the direction sent, acknowledged or refused (R129). -/
def Road.orderOutcome (g : Fin 16) (sent : Order) (acknowledged : Bool) (r : Road) : Road :=
  match r.gate g with
  | none => r
  | some x =>
    if sent = x.standing ∧ x.phase = .pending then
      r.setGate g (if acknowledged then { x with phase := .travelling, timer := some 0 }
                   else { x with phase := .idle, timer := none })
    else r

/-- A gate loses its unit (R127). Standing order and FIELD link stay. -/
def Road.gateLost (g : Fin 16) (r : Road) : Road :=
  match r.gate g with
  | none => r
  | some x =>
    r.setGate g { x with pos := .unknown, reported := none, key := none, timer := none,
                         phase := .idle, retried := false }

/-- The travel limit is reached: JAMMED, GATE_FAULT, and the section tests (R130). -/
def Road.travelLimit (e : Env) (g : Fin 16) (r : Road) : Road :=
  match r.gate g with
  | none => r
  | some x =>
    if x.phase = .travelling then
      Road.gateTest e x.sec
        ((r.setGate g { x with pos := .jammed, timer := none, phase := .idle }).raise .gateFault)
    else r

end Sys2Proof.Machine
end

