-- ==== Sys2Proof/Machine/Postings.lean ====
section
/-! DEFINITION. The life of postings and the closures other blocks make: retirement, revival, AUTO
and FIELD closures, and the notices that follow (chapter 1). -/

namespace Sys2Proof.Machine

/-! ### Retirement and revival (R13, R17, R20) -/

/-- A posting's copy slots are marked and its posting entry is appended or coalesced (R17). -/
def Road.markAndQueue (e : Env) (h : Handle) (overrule : Bool) (r : Road) : Road :=
  (r.markCopies h overrule).append e (.posting h)

/-- An ACTIVE posting enters RETIRING: cause, marking, entry (R13). The notices of R16 are the
caller's. -/
def Road.retire (e : Env) (i : Fin 256) (cause : RetireCause) (overrule : Bool) (r : Road) : Road :=
  match (r.slot i).posting with
  | none => r
  | some p =>
    (r.setPosting i { p with state := .retiring, cause := some cause }).markAndQueue e
      (r.handleAt i) overrule

/-- A RETIRING AUTO or FIELD closure returns to ACTIVE with a pin: version up, slots marked, entry,
coverage notice (R20). -/
def Road.revive (e : Env) (i : Fin 256) (pin : Option Nat) (r : Road) : Road :=
  match (r.slot i).posting with
  | none => r
  | some p =>
    (((r.setPosting i { p with state := .active, cause := none, pin := pin }).bumpVersion i).markAndQueue
      e (r.handleAt i) false).coverageNotice e p.first p.last

/-! ### Closures of the controller's own (R18, R19) -/

/-- The record of an AUTO or FIELD closure (R3, R18, R19). -/
def ownClosure (a : Authority) (first last : Nat) (path : Option Nat) (severity : Nat)
    (pin : Option Nat) : Posting :=
  { state := .active, kind := .closure, authority := a, first := first, last := last, path := path,
    severity := severity, detail := none, urgency := some .immediate, text := [], start := none,
    expiry := none, pin := pin, cause := none, source := none }

/-- PT puts a closure of the controller's own in the lowest FREE slot, `link` writes its handle into
the owner's record, the entry is appended and the coverage notice given (R1, R9, R18, R19). The
reserve keeps a slot free (R8); with none free nothing is made. -/
def Road.createClosure (e : Env) (p : Posting) (link : Handle → Road → Road) (r : Road) : Road :=
  match r.lowestFree with
  | none => r
  | some i =>
    let r := r.occupy i p
    let h := r.handleAt i
    ((link h r).append e (.posting h)).coverageNotice e p.first p.last

/-- Pass time plus a hold; a free value when the sum passes 2^32-1 (R164, log 7). -/
def Road.pinAfter (e : Env) (hold : Nat) (r : Road) : Nat × Road :=
  if e.now + hold ≤ Config.maxPassTime then (e.now + hold, r)
  else ((Config.pinBeyond r.fresh).toNat, { r with fresh := r.fresh + 1 })

/-- Write a path's AUTO link. -/
def Road.linkPath (p : Fin 24) (h : Handle) (r : Road) : Road :=
  match r.path p with
  | none => r
  | some x => r.setPath p { x with link := some h }

/-- Write a gate's FIELD link. -/
def Road.linkGate (g : Fin 16) (h : Handle) (r : Road) : Road :=
  match r.gate g with
  | none => r
  | some x => r.setGate g { x with link := some h }

/-- Path Watch's AUTO action at PT, by the path's link: create, extend the pin, or revive (R18,
R164). -/
def Road.autoClosure (e : Env) (p : Fin 24) (r : Road) : Road :=
  match e.plan.path p, r.path p with
  | some pl, some x =>
    let (pin, r) := r.pinAfter e pl.hold
    match x.link with
    | some h =>
      match r.named h with
      | some q =>
        match q.state with
        | .retiring => r.revive e h.slot (some pin)
        | .active | .pending =>
          r.setPosting h.slot { q with pin := some (max (q.pin.getD 0) pin) }
      | none =>
        r.createClosure e (ownClosure .auto pl.first pl.last (some p.val) 7 (some pin))
          (Road.linkPath p)
    | none =>
      r.createClosure e (ownClosure .auto pl.first pl.last (some p.val) 7 (some pin))
        (Road.linkPath p)
  | _, _ => r

/-- Section Control's FIELD closure at PT, by the gate's link: create, revive, or nothing (R19,
R134). -/
def Road.fieldClosure (e : Env) (g : Fin 16) (r : Road) : Road :=
  match r.gate g with
  | none => r
  | some x =>
    match e.plan.sec x.sec with
    | none => r
    | some sx =>
      let create := r.createClosure e (ownClosure .field sx.first sx.last none 6 none)
        (Road.linkGate g)
      match x.link with
      | some h =>
        match r.namedState h with
        | some .retiring => r.revive e h.slot none
        | some .active | some .pending => r
        | none => create
      | none => create

/-- Section Control has PT retire a gate's ACTIVE FIELD closure with cause KEY_RETURN (R19, R135). -/
def Road.keyReturn (e : Env) (g : Fin 16) (r : Road) : Road :=
  match (r.gate g).bind (·.link) with
  | none => r
  | some h =>
    match r.named h with
    | some p =>
      if p.state = .active then
        (r.retire e h.slot .keyReturn false).coverageNotice e p.first p.last
      else r
    | none => r

end Sys2Proof.Machine
end

