-- ==== Sys2Proof/Machine/PathWatch.lean ====
section
/-! DEFINITION. Path Watch: danger levels, trips, silence and the AUTO action (chapter 8). -/

namespace Sys2Proof.Machine

/-- All path numbers, ascending. -/
def allPaths : List (Fin 24) := List.finRange 24

/-- The AUTO action of a path: PT acts by the link, and the last action is recorded (R164). -/
def Road.autoAction (e : Env) (cause : AutoCause) (r : Road) (p : Fin 24) : Road :=
  let r := r.autoClosure e p
  match r.path p with
  | none => r
  | some x => r.setPath p { x with last := some (cause, e.now) }

/-- A path's silent closure level S; 5, above every level, while the path is not planned. -/
def silentLevel (e : Env) (p : Fin 24) : Nat := ((e.plan.path p).map (·.silent)).getD 5

/-- The threshold in force, T[level] (R153). -/
def thresholdAt (e : Env) (p : Fin 24) (level : Nat) : Nat :=
  ((e.plan.path p).map (·.threshold level)).getD 0

/-- Put a path in QUIET: window stopped, count 0, with a baseline (R155, R158, R161). -/
def PathRec.quieted (x : PathRec) (baseline : Option Byte) : PathRec :=
  { x with watch := .quiet, timer := none, count := 0, baseline := baseline }

/-- A path enters SILENT: the window and baseline go, PATH_SILENT is set, and the AUTO action runs at
level S or above, or in UNATTENDED (R160). -/
def Road.enterSilent (e : Env) (p : Fin 24) (r : Road) : Road :=
  match r.path p with
  | none => r
  | some x =>
    let r := (r.setPath p { x with watch := .silent, timer := none, count := 0,
                                   baseline := none }).raise .pathSilent
    if silentLevel e p ≤ x.level ∨ e.mode = .unattended then r.autoAction e .silent p else r

/-- The threshold test of a COUNTING path: PATH_TRIP, the AUTO action with cause TRIP, and QUIET
(R158). -/
def Road.tripTest (e : Env) (p : Fin 24) (r : Road) : Road :=
  match r.path p with
  | none => r
  | some x =>
    let t := thresholdAt e p x.level
    if x.watch = .counting ∧ t ≠ 0 ∧ t ≤ x.count then
      let r := (r.raise .pathTrip).autoAction e .trip p
      match r.path p with
      | none => r
      | some y => r.setPath p (y.quieted y.baseline)
    else r

/-- New trips `n > 0` reach a QUIET or COUNTING path (R157). -/
def Road.newTrips (e : Env) (p : Fin 24) (n : Nat) (r : Road) : Road :=
  match r.path p with
  | none => r
  | some x =>
    match x.watch with
    | .quiet =>
      (r.setPath p { x with watch := .counting, timer := some 0, count := min n 255 }).tripTest e p
    | .counting => (r.setPath p { x with count := min (x.count + n) 255 }).tripTest e p
    | .unwatched | .waiting | .silent => r

/-- A monitor's report reaches a path that names it (R155, R156, R160, R161). -/
def Road.monitorReport (e : Env) (trips : Byte) (fault : Bool) (r : Road) (p : Fin 24) : Road :=
  match r.path p with
  | none => r
  | some x =>
    match x.watch with
    | .unwatched => r
    | .waiting => if fault then r.enterSilent e p else r.setPath p (x.quieted (some trips))
    | .silent => if fault then r else r.setPath p (x.quieted (some trips))
    | .quiet | .counting =>
      if fault then r.enterSilent e p
      else
        let n := (trips - x.baseline.getD trips).toNat
        let r := r.setPath p { x with baseline := some trips }
        if n = 0 then r else r.newTrips e p n

/-- A monitor's loss notice reaches a path that names it (R155, R160, R161). -/
def Road.monitorLost (e : Env) (r : Road) (p : Fin 24) : Road :=
  match r.watchOf p with
  | some .waiting | some .quiet | some .counting => r.enterSilent e p
  | some .unwatched | some .silent | none => r

/-- The paths whose plan names a unit as monitor, ascending (R163). -/
def pathsOf (e : Env) (u : UnitId) : List (Fin 24) :=
  allPaths.filter fun p => (e.plan.path p).any fun x => x.monitor == some u

/-- The danger level of a path in the table: the detail of its ACTIVE DANGER posting, or 0 (R153). -/
def Road.tableLevel (r : Road) (p : Fin 24) : Nat :=
  ((r.postings.find? fun x =>
    x.2.kind == .danger && x.2.state == .active && x.2.path == some p.val).bind
      (·.2.detail)).getD 0

/-- PT's danger notice, given when the path's level changes value: the level is written, and the path
acts by its watch state (R16, R153, R159). -/
def Road.dangerNotice (e : Env) (r : Road) (p : Fin 24) : Road :=
  match r.path p with
  | none => r
  | some x =>
    let level := r.tableLevel p
    if level = x.level then r
    else
      let r := r.setPath p { x with level := level }
      match x.watch with
      | .counting => r.tripTest e p
      | .silent =>
        if x.level < level ∧ silentLevel e p ≤ level then r.autoAction e .silent p else r
      | .unwatched | .waiting | .quiet => r

/-- SP's mode notice on entry to UNATTENDED: every SILENT path runs the AUTO action, in ascending
order (R162). -/
def Road.modeNotice (e : Env) (r : Road) : Road :=
  (allPaths.filter fun p => (r.path p).any (·.watch == .silent)).foldl
    (Road.autoAction e .silent) r

/-- The trip window runs out: its trips are dropped (R158). -/
def Road.windowRunOut (p : Fin 24) (r : Road) : Road :=
  match r.path p with
  | none => r
  | some x => if x.watch = .counting then r.setPath p (x.quieted x.baseline) else r

/-! ### What PT tells its neighbours, and pass-time events (R10, R16) -/

/-- The path a posting names, as a path number. -/
def Posting.pathNumber (p : Posting) : Option (Fin 24) :=
  p.path.bind fun n => if h : n < 24 then some ⟨n, h⟩ else none

/-- The notices for a posting that has become ACTIVE or left ACTIVE: coverage for a CLOSURE, danger
for a DANGER (R16). -/
def Road.notices (e : Env) (p : Posting) (r : Road) : Road :=
  match p.kind with
  | .closure => r.coverageNotice e p.first p.last
  | .danger =>
    match p.pathNumber with
    | some n => r.dangerNotice e n
    | none => r
  | .restriction | .limit | .notice => r

/-- An optional pass time is absent or has passed. -/
def passedOrAbsent (now : Nat) (t : Option Nat) : Bool := t.all (· ≤ now)

/-- A PENDING posting's start has passed (R10). -/
def dueToStart (now : Nat) (p : Posting) : Bool :=
  p.state == .pending && passedOrAbsent now p.start

/-- An ACTIVE posting's expiry has passed and no pin holds it (R10, R11, R12). -/
def dueToExpire (now : Nat) (p : Posting) : Bool :=
  p.state == .active && p.expiry.any (· ≤ now) && passedOrAbsent now p.pin

/-- Bring one slot up to date (R10, parts 1 and 2): it starts, then may expire; either way its entry
is appended once. Answers the posting when it changed, for the notices. -/
def Road.updateSlot (e : Env) (r : Road) (i : Fin 256) : Road × Option Posting :=
  match (r.slot i).posting with
  | none => (r, none)
  | some p =>
    let started := dueToStart e.now p
    let p' := if started then { p with state := .active } else p
    if dueToExpire e.now p' then
      (((r.setPosting i p').raise .postingExpired).retire e i .expired false, some p')
    else if started then ((r.setPosting i p').append e (.posting (r.handleAt i)), some p')
    else (r, none)

/-- Bring every slot up to date in slot order, gathering the postings that changed (R10). -/
def Road.updateSlots (e : Env) : List (Fin 256) → Road → Road × List Posting
  | [], r => (r, [])
  | i :: is, r =>
    let (r, changed) := r.updateSlot e i
    let (r, rest) := Road.updateSlots e is r
    (r, changed.toList ++ rest)

/-- A pass-time event at the Posting Table (R10): starts and expiries, the freeing test, then the
notices in slot order. The AUTO actions that several danger notices cause are taken, and their entries
appended, with their notices, in slot order of the DANGER postings and not by path number (log 38). -/
def Road.passTimeEvent (e : Env) (r : Road) : Road :=
  let (r, changed) := Road.updateSlots e allSlots r
  (changed.foldl (fun r p => r.notices e p) r.freeTest).readyTests e

end Sys2Proof.Machine
end

