-- ==== Sys2Proof/Machine/Gates.lean ====
section
/-! DEFINITION. What Section Control does with a gate's report: position, key, FIELD closures, end of
travel and the order made again (R127, R130, R131, R133 to R135). -/

namespace Sys2Proof.Machine

/-- The position state after a report (R127). A jam is kept but by the ordered position or FAULT. -/
def GateRec.posAfter (x : GateRec) (p : GatePos) : PosState :=
  if x.pos = .jammed ∧ p ≠ .fault ∧ p ≠ x.standing.position then .jammed else posOfReport p

/-- The record after a report, before the key rules; a FAULT ends a travel (R127). A retry is then
answered (R132). -/
def GateRec.reportedAs (x : GateRec) (p : GatePos) (k : KeyMode) : GateRec :=
  let stops := p = .fault ∧ x.phase = .travelling
  { x with reported := some p, key := some k, pos := x.posAfter p,
           phase := if stops then .idle else x.phase, timer := if stops then none else x.timer,
           retried := false }

/-- The key mode turns to LOCAL: the order is withdrawn, travel stops and a jam ends (R133). -/
def Road.keyLocal (r : Road) (g : Fin 16) : Road :=
  match r.gate g with
  | none => r
  | some x =>
    let r := r.setGate g { x with phase := .idle, timer := none,
                                  pos := if x.pos = .jammed then x.posFromReport else x.pos }
    r.setLine x.unit.line ((r.line x.unit.line).withdrawOrder x.unit.addr)

/-- The key mode rules: GATE_LOCAL on a change or on a first status in LOCAL, and the turn to LOCAL
(R133). `before` is the key mode before the report, absent for a first status. -/
def Road.keyRule (before : Option KeyMode) (k : KeyMode) (g : Fin 16) (r : Road) : Road :=
  let flagged := before ≠ some k ∧ (before ≠ none ∨ k = .atPanel)
  let r := if flagged then r.raise .gateLocal else r
  if k = .atPanel ∧ before ≠ some .atPanel then r.keyLocal g else r

/-- The FIELD closure rules: made or revived for a gate shut under LOCAL key while its standing order
is OPEN (R134), retired when the key is REMOTE (R135). -/
def Road.fieldRule (e : Env) (g : Fin 16) (r : Road) : Road :=
  match r.gate g with
  | none => r
  | some x =>
    if x.key = some .atPanel ∧ x.reported = some .closed ∧ x.standing = .toOpen then
      r.fieldClosure e g
    else if x.key = some .remote then r.keyReturn e g else r

/-- A travelling gate that reports its ordered position ends its travel (R130). -/
def Road.travelEnd (g : Fin 16) (r : Road) : Road :=
  match r.gate g with
  | none => r
  | some x =>
    if x.phase = .travelling ∧ x.reported = some x.standing.position then
      r.setGate g { x with phase := .idle, timer := none }
    else r

/-- The order is made again for an idle REMOTE gate that stands away from its ordered position
(R131). -/
def Road.resend (g : Fin 16) (r : Road) : Road :=
  match r.gate g with
  | none => r
  | some x =>
    if x.key = some .remote ∧ (x.reported = some .isOpen ∨ x.reported = some .closed)
        ∧ x.reported ≠ some x.standing.position ∧ x.phase = .idle ∧ x.pos ≠ .jammed then
      r.makeOrder g
    else r

/-- A valid STATUS from a gate's unit, in the order R127 gives. A FAULT that finds the gate in FAULT is no
entry and sets no flag, but for the first report after a GATE_RETRY: that gate goes to FAULT again, and
GATE_FAULT is set (R127, R132, log 36). -/
def Road.gateReport (e : Env) (g : Fin 16) (p : GatePos) (k : KeyMode) (r : Road) : Road :=
  match r.gate g with
  | none => r
  | some x =>
    let x' := x.reportedAs p k
    let r := r.setGate g x'
    let r := r.flagFault (x.pos == .fault && !x.retried) x'.pos
    let r := ((((r.keyRule x.key k g).fieldRule e g).travelEnd g).resend g)
    if (r.gate g).any (·.pos != x.pos) then r.gateTest e x.sec else r

end Sys2Proof.Machine
end

