-- ==== Sys2Proof/Machine/Copies.lean ====
section
/-! DEFINITION. The Distribution Engine's directory: reports, losses, transfer outcomes and fetched
amendments (R71, R72, R79, R86 to R91, R102 to R104). -/

namespace Sys2Proof.Machine

/-- Some record of a unit stops naming the handle it named. -/
def stopsNaming (old new : List CopySlot) : Bool :=
  (old.zip new).any fun c => c.1.handle?.isSome && c.1.handle? != c.2.handle?

/-- Write a unit's directory records; a copy slot that stops naming a posting has PT test every
RETIRING posting for freeing (R14). -/
def Road.record (r : Road) (u : UnitId) (new : List CopySlot) : Road :=
  let r' := r.setDirOf u new
  if stopsNaming (r.dirOf u) new then r'.freeTest else r'

/-- Keep each handle in the lowest record that names it; each later one becomes EMPTY (R71). -/
def dedupe : List Handle → List CopySlot → List CopySlot
  | _, [] => []
  | seen, c :: cs =>
    match c.handle? with
    | none => c :: dedupe seen cs
    | some h =>
      if seen.contains h then .empty :: dedupe seen cs else c :: dedupe (h :: seen) cs

/-! ### Outcomes of transfers (R86, R87) -/

/-- A slot is due to name a handle at a version: CURRENT only when the handle names an ACTIVE posting
at that version (R70, R86, R91). -/
def Road.heldAs (r : Road) (h : Handle) (v : Byte) : CopySlot :=
  if r.namedState h = some .active ∧ r.version h = v then .current h v else .behind h v

/-- Outcome "committed" (R86), with R71 keeping the handle in the committed slot. -/
def Road.committed (e : Env) (u : UnitId) (n : Nat) (h : Handle) (v : Byte) (r : Road) : Road :=
  let others := (r.dirOf u).map fun c => if c.handle? = some h then .empty else c
  let twice := (indexes (fun c => c.handle? == some h) (r.dirOf u)).any (· != n)
  let r := r.record u (others.set n (r.heldAs h v))
  if twice then r.append e (.unit u) else r

/-- Outcome "cleared" (R87). -/
def Road.cleared (u : UnitId) (n : Nat) (r : Road) : Road :=
  r.record u ((r.dirOf u).set n .empty)

/-- A failure outcome: awaiting report is set, a unit entry is appended or coalesced, and the unit's
part in the head entry ends; a failed fetch has ended (R83, R85, R87). That the entry is appended before
the part ends and the head may leave, so that an unstarted entry for the unit right behind the head takes
it in, is the model's choice (log 41). -/
def Road.failed (e : Env) (u : UnitId) (t : Transfer) (r : Road) : Road :=
  let r := ((r.setAwaits u true).append e (.unit u)).endPart u
  let r := match t.step with
    | .fetch => r.endFetch fun it => it.unit == u && it.slot == t.slot
    | .load | .burst | .line _ | .commit | .clear => r
  r.pump e

/-- A unit's loss at DE: its slots become UNKNOWN, its part in the head entry ends, its
awaiting-report condition clears (R72). -/
def Road.copiesLost (e : Env) (u : UnitId) (r : Road) : Road :=
  let r := (((r.endPart u).endFetch (·.unit == u)).setAwaits u false)
  (r.record u ((r.dirOf u).map fun _ => .unknown)).pump e

/-! ### Fetched amendments (R79, R102 to R104) -/

/-- The standing of a fetched slot (5.3). -/
inductive Standing where
  | amended | overruled | noLonger
  deriving DecidableEq, Repr

/-- The standing of a record for a fetched handle (R79). -/
def CopySlot.standing (h : Handle) : CopySlot → Standing
  | .amended h' _ => if h' = h then .amended else .noLonger
  | .overruled _ _ => .overruled
  | .empty | .current _ _ | .behind _ _ | .unknown => .noLonger

/-- A new text fits the pool with the posting's own lines counted as free (R7). -/
def Road.fits (r : Road) (p : Posting) (text : List (List Byte)) : Bool :=
  text.length ≤ r.freeLines + p.text.length

/-- Conditions 2 to 7 of a merge, for the posting a handle names (R102). -/
def Road.mergeable (r : Road) (h : Handle) (base : Byte) (text : Option (List (List Byte)))
    (p : Posting) : Bool :=
  p.state == .active && p.authority == .station && base == r.version h &&
    text.all (fun t => !(p.kind == .notice && t.isEmpty) && r.fits p t)

/-- Replace a posting's text in the pool (R7). -/
def Road.swapText (r : Road) (i : Fin 256) (p : Posting) (text : List (List Byte)) : Road :=
  { r.setPosting i { p with text := text } with
    freeLines := r.freeLines + p.text.length - text.length }

/-- Merge an amendment into a posting (R103). -/
def Road.merge (e : Env) (u : UnitId) (h : Handle) (severity : Option Nat)
    (text : Option (List (List Byte))) (p : Posting) (r : Road) : Road :=
  let p' := { p with severity := severity.getD p.severity, source := some u }
  (((r.swapText h.slot p' (text.getD p.text)).bumpVersion h.slot).raise .amendMerged).markAndQueue e h
    false

/-- Outcome "fetched": the record becomes OVERRULED when it was AMENDED for the handle (R79), the
amendment is merged or discarded (R102, R104), and the fetch has ended (R78). -/
def Road.fetched (e : Env) (u : UnitId) (n : Nat) (h : Handle) (base : Byte)
    (severity : Option Nat) (text : Option (List (List Byte))) (r : Road) : Road :=
  let c := (r.dirOf u).getD n .unknown
  let standing := c.standing h
  let r := match c, standing with
    | .amended h' b, .amended => r.setCopy u n (.overruled h' b)
    | _, _ => r
  let r := match standing, r.named h with
    | .amended, some p =>
      if r.mergeable h base text p then r.merge e u h severity text p else r.raise .amendDiscarded
    | _, _ => r.raise .amendDiscarded
  (r.endFetch fun it => it.unit == u && it.slot == n).pump e

/-! ### Reports (R88 to R91) -/

/-- A reported slot agrees with its record (R88). -/
def CopySlot.agrees : CopySlot → SlotReport → Bool
  | .empty, .empty => true
  | .current h v, .held h' v' am => h == h' && v == v' && !am
  | .behind h v, .held h' v' am => h == h' && v == v' && !am
  | .amended h b, .held h' v' am => h == h' && b == v' && am
  | .overruled h b, .held h' v' am => h == h' && b == v' && am
  | _, _ => false

/-- A reported slot as an ordinary status records it when it does not agree (R89, R90). -/
def recordedAs : SlotReport → CopySlot
  | .empty => .empty
  | .held h v am => if am then .amended h v else .behind h v

/-- A record after an ordinary status (R88 to R90). -/
def CopySlot.afterReport (c : CopySlot) (s : SlotReport) : CopySlot :=
  if c.agrees s then c else recordedAs s

/-- A reported slot as a first status records it (R91). -/
def Road.firstRecorded (r : Road) : SlotReport → CopySlot
  | .empty => .empty
  | .held h v am => if am then .amended h v else r.heldAs h v

/-- The posting entries a report calls for, in slot order: newly amended slots whose handle names a
posting (R89). -/
def Road.reportEntries (r : Road) (old : List CopySlot) (slots : List SlotReport) : List Entry :=
  (old.zip slots).filterMap fun x =>
    match x.2 with
    | .held h _ true => if x.1.agrees x.2 || (r.named h).isNone then none else some (.posting h)
    | _ => none

/-- A reported slot that does not agree calls for a unit entry: it is not amended (R90), or its
handle names no posting (R89). -/
def Road.callsUnitEntry (r : Road) (c : CopySlot) (s : SlotReport) : Bool :=
  !c.agrees s && match s with
    | .held h _ true => (r.named h).isNone
    | _ => true

/-- DE takes the copy slots of a valid STATUS (R64, R85, R88 to R91): all of it is recorded, then the
posting entries and last the unit entry are appended or coalesced (R74). -/
def Road.copiesReport (e : Env) (u : UnitId) (first : Bool) (slots : List SlotReport) (r : Road) :
    Road :=
  let old := r.dirOf u
  let raw := if first then slots.map r.firstRecorded
    else (old.zip slots).map fun x => x.1.afterReport x.2
  let new := dedupe [] raw
  let entries := if first then [] else r.reportEntries old slots
  let unitEntry := first || new != raw || (old.zip slots).any fun x => r.callsUnitEntry x.1 x.2
  let r := (r.setAwaits u false).record u new
  let r := entries.foldl (fun r en => r.append e en) r
  if unitEntry then r.append e (.unit u) else r

end Sys2Proof.Machine
end

