-- ==== Sys2Proof/Machine/Counting.lean ====
section
/-! DEFINITION. Counting Channels: edges, stuck inputs and occupancy (chapter 7). -/

namespace Sys2Proof.Machine

/-- All detector inputs, ascending. -/
def allInputs : List (Fin 16) := List.finRange 16

/-- The highest KNOWN occupancy (R146). -/
def maxOccupancy : Nat := 4095

/-- A counted pulse on an occupancy (R146). -/
def Occ.pulse : Occ → Sense → Occ
  | .unknown, _ => .unknown
  | .known n, .into => if n < maxOccupancy then .known (n + 1) else .unknown
  | .known n, .out => if n = 0 then .unknown else .known (n - 1)

/-- Set a section's occupancy; a change is handed to Section Control, which makes its sweep test
(R122, R147). -/
def Road.changeOcc (e : Env) (i : Fin 8) (x : Occ) (r : Road) : Road :=
  match r.occOf i with
  | none => r
  | some old => if old = x then r else (r.setOcc i x).sweepTest e i

/-- A counted pulse reaches its section's occupancy (R146). -/
def Road.countPulse (e : Env) (i : Fin 8) (sense : Sense) (r : Road) : Road :=
  match r.occOf i with
  | none => r
  | some old => r.changeOcc e i (old.pulse sense)

/-- A record whose level has just risen: HIGH, timing from zero, no partial mark (R143, R145). -/
def InputRec.risen (x : InputRec) : InputRec :=
  { x with state := .working, level := some .high, timer := some 0, partialMark := false }

/-- A rise on an input (R142, R143, R145). -/
def Road.rise (i : Fin 16) (r : Road) : Road :=
  let x := r.input i
  match x.state with
  | .unused => r
  | .working | .stuck => r.setInput i x.risen

/-- A record whose level has just fallen: LOW, no timer, no partial mark. -/
def InputRec.fallen (x : InputRec) : InputRec :=
  { x with state := .working, level := some .low, timer := none, partialMark := false }

/-- A fall on an input (R142, R144, R145). -/
def Road.fall (e : Env) (i : Fin 16) (r : Road) : Road :=
  let x := r.input i
  match x.state with
  | .unused => r
  | .stuck => r.setInput i x.fallen
  | .working =>
    match x.level, x.timer with
    | some .high, some width =>
      if x.partialMark then r.setInput i x.fallen
      else if width < (e.plan.detector i).minPulse then
        r.setInput i { x.fallen with short := x.short + 1 }
      else
        let r := r.setInput i { x.fallen with counted := x.counted + 1 }
        match (e.plan.detector i).assign with
        | some (s, sense) => r.countPulse e s sense
        | none => r
    | _, _ => r.setInput i { x with level := some .low, timer := none }

/-- The high timer of a WORKING input reaches its stuck limit (R145). -/
def Road.stuckLimit (e : Env) (i : Fin 16) (r : Road) : Road :=
  let x := r.input i
  if x.state = .working ∧ x.level = some .high then
    let r := (r.setInput i { x with state := .stuck, timer := none }).raise .detectorFault
    match (e.plan.detector i).assign with
    | some (s, _) => r.changeOcc e s .unknown
    | none => r
  else r

/-- An input put to work, or left UNUSED, with its level sampled (R141, R150). -/
def InputRec.putToWork (d : PlanDetector) (level : Level) : InputRec :=
  match d.assign with
  | none => InputRec.unused
  | some _ =>
    { state := .working, level := some level,
      timer := if level = .high then some 0 else none,
      partialMark := level == .high, counted := 0, short := 0 }

end Sys2Proof.Machine
end

