-- ==== Sys2Proof/Decode.lean ====
section
/-! DEFINITION. From bytes to commands: request frames of the station port (R193, R202) and answer
frames of a field line (R43, R45, R204). The opcode table gives no row any bits. -/

namespace Sys2Proof

/-- The number that bytes spell, most significant byte first (R202). -/
def beNat (l : List Byte) : Nat := l.foldl (fun n b => n * 256 + b.toNat) 0

/-- One byte of a number. -/
def u8 (n : Nat) : List Byte := [BitVec.ofNat 8 n]
/-- Two bytes, most significant first (R202). -/
def be16 (n : Nat) : List Byte := [BitVec.ofNat 8 (n / 256), BitVec.ofNat 8 n]
/-- Four bytes, most significant first (R202). -/
def be32 (n : Nat) : List Byte :=
  [BitVec.ofNat 8 (n / 16777216), BitVec.ofNat 8 (n / 65536), BitVec.ofNat 8 (n / 256),
    BitVec.ofNat 8 n]

/-- The sum of bytes modulo 256. -/
def byteSum : List Byte → Byte
  | [] => 0
  | b :: bs => b + byteSum bs

/-- A frame closed by the sum byte that brings the whole to 0 modulo 256 (R43, R193). -/
def withSum (l : List Byte) : List Byte := l ++ [0 - byteSum l]

/-! ### Station port -/

/-- The read code (R202). -/
def readCode : Byte := 0x00

/-- The request a code names, with its body (R202). -/
def requestOf (code : Byte) (body : List Byte) (begunBusy : Bool) : Instr :=
  match code.toNat with
  | 0x10 => .post ⟨body, begunBusy⟩
  | 0x11 => .change ⟨body, begunBusy⟩
  | 0x12 => .retire ⟨body, begunBusy⟩
  | 0x13 => .lookup ⟨body, begunBusy⟩
  | 0x20 => .scan ⟨body, begunBusy⟩
  | 0x21 => .walk ⟨body, begunBusy⟩
  | 0x22 => .describe ⟨body, begunBusy⟩
  | 0x23 => .unitStatus ⟨body, begunBusy⟩
  | 0x24 => .sectionStatus ⟨body, begunBusy⟩
  | 0x25 => .gateStatus ⟨body, begunBusy⟩
  | 0x26 => .detectorStatus ⟨body, begunBusy⟩
  | 0x27 => .pathStatus ⟨body, begunBusy⟩
  | 0x30 => .releaseSection ⟨body, begunBusy⟩
  | 0x31 => .forceSweep ⟨body, begunBusy⟩
  | 0x32 => .confirmClear ⟨body, begunBusy⟩
  | 0x33 => .gateRetry ⟨body, begunBusy⟩
  | 0x38 => .settle ⟨body, begunBusy⟩
  | 0x39 => .abort ⟨body, begunBusy⟩
  | 0x40 => .takeAttention ⟨body, begunBusy⟩
  | 0x41 => .setEnables ⟨body, begunBusy⟩
  | 0x42 => .attend ⟨body, begunBusy⟩
  | 0x43 => .unattend ⟨body, begunBusy⟩
  | 0x48 => .setTime ⟨body, begunBusy⟩
  | 0x49 => .readTime ⟨body, begunBusy⟩
  | 0x50 => .planRoad ⟨body, begunBusy⟩
  | 0x51 => .planUnit ⟨body, begunBusy⟩
  | 0x52 => .planSection ⟨body, begunBusy⟩
  | 0x53 => .planDetector ⟨body, begunBusy⟩
  | 0x54 => .planPath ⟨body, begunBusy⟩
  | 0x55 => .readPlan ⟨body, begunBusy⟩
  | 0x56 => .commission ⟨body, begunBusy⟩
  | 0x57 => .decommission ⟨body, begunBusy⟩
  | _ => .unknownRequestCode code ⟨body, begunBusy⟩

/-- The request code and body of a request command; none for the other commands. -/
def requestParts : Instr → Option (Byte × List Byte)
  | .post ⟨body, _⟩ => some (0x10, body)
  | .change ⟨body, _⟩ => some (0x11, body)
  | .retire ⟨body, _⟩ => some (0x12, body)
  | .lookup ⟨body, _⟩ => some (0x13, body)
  | .scan ⟨body, _⟩ => some (0x20, body)
  | .walk ⟨body, _⟩ => some (0x21, body)
  | .describe ⟨body, _⟩ => some (0x22, body)
  | .unitStatus ⟨body, _⟩ => some (0x23, body)
  | .sectionStatus ⟨body, _⟩ => some (0x24, body)
  | .gateStatus ⟨body, _⟩ => some (0x25, body)
  | .detectorStatus ⟨body, _⟩ => some (0x26, body)
  | .pathStatus ⟨body, _⟩ => some (0x27, body)
  | .releaseSection ⟨body, _⟩ => some (0x30, body)
  | .forceSweep ⟨body, _⟩ => some (0x31, body)
  | .confirmClear ⟨body, _⟩ => some (0x32, body)
  | .gateRetry ⟨body, _⟩ => some (0x33, body)
  | .settle ⟨body, _⟩ => some (0x38, body)
  | .abort ⟨body, _⟩ => some (0x39, body)
  | .takeAttention ⟨body, _⟩ => some (0x40, body)
  | .setEnables ⟨body, _⟩ => some (0x41, body)
  | .attend ⟨body, _⟩ => some (0x42, body)
  | .unattend ⟨body, _⟩ => some (0x43, body)
  | .setTime ⟨body, _⟩ => some (0x48, body)
  | .readTime ⟨body, _⟩ => some (0x49, body)
  | .planRoad ⟨body, _⟩ => some (0x50, body)
  | .planUnit ⟨body, _⟩ => some (0x51, body)
  | .planSection ⟨body, _⟩ => some (0x52, body)
  | .planDetector ⟨body, _⟩ => some (0x53, body)
  | .planPath ⟨body, _⟩ => some (0x54, body)
  | .readPlan ⟨body, _⟩ => some (0x55, body)
  | .commission ⟨body, _⟩ => some (0x56, body)
  | .decommission ⟨body, _⟩ => some (0x57, body)
  | .unknownRequestCode code ⟨body, _⟩ => some (code, body)
  | .replyRead .. | .hostIntervalRunOut | .settleTimeout | .passTimeSecond | .mainsLoss
  | .mainsReturn | .resetPinAsserted | .resetPinReleased | .status .. | .ack .. | .ackBurst ..
  | .ackSingle .. | .nak .. | .amendData .. | .noAnswer _ | .fieldResponseTimeout _
  | .windowRunOut _ | .travelLimitReached _ | .noticeTimerReachesL _ | .noticeWaitRunOut _
  | .sweepMinimumRun _ | .sweepOverdueRun _ | .detectorRise _ | .detectorFall _
  | .stuckLimitReached _ | .requestFrameError .. | .backupDomainLost => none

/-- The frame of a request: code, body length, body, sum (12.1, R202). -/
def encodeRequest (i : Instr) : Option (List Byte) :=
  (requestParts i).map fun p => withSum (p.1 :: be16 p.2.length ++ p.2)

/-- The frame checks of R193: the bytes number four plus the body length, and add up to 0. -/
def frameGood : List Byte → Bool
  | code :: hi :: lo :: rest =>
    rest.length == beNat [hi, lo] + 1 && byteSum (code :: hi :: lo :: rest) == 0
  | _ => false

/-- The command that the bytes the host shifts in during one transaction spell (R192, R193), given
whether it began while the port was BUSY. -/
def decodeTransaction (bytes : List Byte) (begunBusy : Bool) : Option Instr :=
  match bytes with
  | [] => none
  | code :: rest =>
    if code = readCode then some (.replyRead ⟨bytes.length, begunBusy⟩)
    else if frameGood bytes then some (requestOf code (rest.drop 2).dropLast begunBusy)
    else some (.requestFrameError ⟨bytes, begunBusy⟩)

/-! ### Field lines -/

/-- A character of the sign set, codes 32..95 (R6, 12.3). -/
def signChar (b : Byte) : Bool := 32 ≤ b.toNat && b.toNat ≤ 95

/-- A text line: 1..20 characters of the sign set (R6). -/
def goodLine (l : List Byte) : Bool := 1 ≤ l.length && l.length ≤ 20 && l.all signChar

/-- A slot record of a STATUS: holding, slot, generation, version (12.2). The last three bytes of an
empty record are not checked (R204). -/
def decodeSlot : List Byte → Option SlotReport
  | [hold, slot, gen, ver] =>
    if hold = 0x00 then some .empty
    else if (hold = 0x01 ∨ hold = 0x02) ∧ gen.toNat ≤ 15 then
      some (.held ⟨slot.toFin, gen.setWidth 4⟩ ver (hold = 0x02))
    else none
  | _ => none

/-- `n` slot records in slot order, and the bytes after them. -/
def decodeSlots : Nat → List Byte → Option (List SlotReport × List Byte)
  | 0, l => some ([], l)
  | n + 1, a :: b :: c :: d :: l => do
    let r ← decodeSlot [a, b, c, d]
    let (rs, rest) ← decodeSlots n l
    return (r :: rs, rest)
  | _ + 1, _ => none

/-- Position codes of a GATE report (12.2). -/
def decodePos (b : Byte) : Option GatePos :=
  match b.toNat with
  | 0 => some .isOpen
  | 1 => some .closed
  | 2 => some .moving
  | 3 => some .fault
  | _ => none

/-- Key mode codes of a GATE report (12.2). -/
def decodeKey (b : Byte) : Option KeyMode :=
  match b.toNat with
  | 0 => some .remote
  | 1 => some .atPanel
  | _ => none

/-- Body length of a STATUS of a kind, kind byte included (12.2). -/
def reportLength (kind : Byte) : Option Nat :=
  match kind.toNat with
  | 0 => some 33
  | 1 => some 11
  | 2 => some 3
  | _ => none

/-- The body of a STATUS: the kind byte, then the report of that kind (12.2). -/
def decodeReport : List Byte → Option Report
  | [] => none
  | kind :: l =>
    match kind.toNat with
    | 0 =>
      match decodeSlots 8 l with
      | some (rs, []) => some (.sign rs)
      | _ => none
    | 1 =>
      match decodeSlots 2 l with
      | some (rs, [p, k]) => do return .gate rs (← decodePos p) (← decodeKey k)
      | _ => none
    | 2 =>
      match l with
      | [t, f] => if f = 0x00 ∨ f = 0x01 then some (.monitor t (f = 0x01)) else none
      | _ => none
    | _ => none

/-- The TEXT frames that follow an AMEND_DATA: `n` of them from line index `k`, each complete, with
good characters, a good sum and the address of the exchange (R45, R62, R204). Bytes after the last of
them are no part of the answer (R44, R204). -/
def decodeTexts (addr : Byte) : Nat → Nat → List Byte → Option (List (List Byte))
  | 0, _, _ => some []
  | n + 1, k, a :: ty :: idx :: cnt :: l =>
    let line := l.take cnt.toNat
    let frame := a :: ty :: idx :: cnt :: l.take (cnt.toNat + 1)
    if a = addr ∧ ty = 0x04 ∧ idx.toNat = k ∧ goodLine line = true ∧ line.length = cnt.toNat
        ∧ cnt.toNat < l.length ∧ byteSum frame = 0 then do
      return line :: (← decodeTexts addr n (k + 1) (l.drop (cnt.toNat + 1)))
    else none
  | _ + 1, _, _ => none

/-- The body of an AMEND_DATA and the TEXT frames after it (R62, 12.2). -/
def decodeAmend (line : Fin 4) (addr : Byte) : List Byte → Option Instr
  | base :: sev :: amended :: count :: sum :: texts =>
    if byteSum [addr, 0x09, base, sev, amended, count, sum] = 0 ∧ (sev.toNat ≤ 7 ∨ sev = 0xFF)
        ∧ count.toNat ≤ 4 then
      let severity := if sev = 0xFF then none else some sev.toNat
      if amended = 0x00 then
        if count = 0 then some (.amendData line addr base severity none) else none
      else if amended = 0x01 then do
        return .amendData line addr base severity (some (← decodeTexts addr count.toNat 0 texts))
      else none
    else none
  | _ => none

/-- The bytes of a frame after its address and type: as many as its body has and the sum byte, when
they have all come and the whole adds up (R43, R45, R204). The body is answered; what comes after the
frame's end is discarded (R44). -/
def frameBody (addr type : Byte) (n : Nat) (l : List Byte) : Option (List Byte) :=
  if n < l.length ∧ byteSum (addr :: type :: l.take (n + 1)) = 0 then some (l.take n) else none

/-- The answer that the bytes after the address spell, by type; none where R45 or R204 takes it as no
answer. -/
def answerOf (line : Fin 4) (addr type : Byte) (l : List Byte) : Option Instr := do
  match type.toNat with
  | 0x02 =>
    let n ← reportLength (← l.head?)
    return .status line addr (← decodeReport (← frameBody addr type n l))
  | 0x09 => decodeAmend line addr l
  | 0x0A => (frameBody addr type 0 l).map fun _ => .ackBurst line addr
  | 0x0B => (frameBody addr type 0 l).map fun _ => .ackSingle line addr
  | 0x0C => (frameBody addr type 0 l).map fun _ => .ack line addr
  | 0x0D => (frameBody addr type 0 l).map fun _ => .nak line addr
  | _ => none

/-- The event that an answer on a line is: the answer it spells, or NO_ANSWER where R45 or R204 takes
it as none. Whether the exchange in flight expects that answer is the machine's to tell. -/
def decodeAnswer (line : Fin 4) (bytes : List Byte) : Instr :=
  match bytes with
  | addr :: type :: l => (answerOf line addr type l).getD (.noAnswer line)
  | _ => .noAnswer line

/-- The host's entry: spec/opcode_table.json gives no row any bits, so no word spells a command. -/
def decodeTableWord (_nbits _w : Nat) : Option Instr := none

end Sys2Proof
end

