-- ==== Sys2Proof/WellFormed.lean ====
section
/-! DEFINITION. Which operands a command can have. -/

namespace Sys2Proof

/-- A body a request frame can carry: its length fits the two length bytes (R202). -/
def goodBody (body : List Byte) : Bool := body.length ≤ 65535

/-- A code names no request and is not the read code (R202). -/
def unknownCode (code : Byte) : Bool :=
  code != readCode && requestOf code [] false == .unknownRequestCode code ⟨[], false⟩

/-- A STATUS body has the slots its kind has: 8 for a SIGN, 2 for a GATE (R52). -/
def goodReport : Report → Bool
  | .sign slots => slots.length == 8
  | .gate slots _ _ => slots.length == 2
  | .monitor _ _ => true

/-- An amended text: 0..4 lines, each 1..20 characters of the sign set (5.1, R204). -/
def goodText (t : List (List Byte)) : Bool := t.length ≤ 4 && t.all goodLine

/-- The check of a command's operands. -/
def wellFormed : Instr → Bool
  | .post ⟨b, _⟩ | .change ⟨b, _⟩ | .retire ⟨b, _⟩ | .lookup ⟨b, _⟩ | .scan ⟨b, _⟩ | .walk ⟨b, _⟩ | .describe ⟨b, _⟩
  | .unitStatus ⟨b, _⟩ | .sectionStatus ⟨b, _⟩ | .gateStatus ⟨b, _⟩ | .detectorStatus ⟨b, _⟩ | .pathStatus ⟨b, _⟩
  | .releaseSection ⟨b, _⟩ | .forceSweep ⟨b, _⟩ | .confirmClear ⟨b, _⟩ | .gateRetry ⟨b, _⟩ | .settle ⟨b, _⟩
  | .abort ⟨b, _⟩ | .takeAttention ⟨b, _⟩ | .setEnables ⟨b, _⟩ | .attend ⟨b, _⟩ | .unattend ⟨b, _⟩ | .setTime ⟨b, _⟩
  | .readTime ⟨b, _⟩ | .planRoad ⟨b, _⟩ | .planUnit ⟨b, _⟩ | .planSection ⟨b, _⟩ | .planDetector ⟨b, _⟩
  | .planPath ⟨b, _⟩ | .readPlan ⟨b, _⟩ | .commission ⟨b, _⟩ | .decommission ⟨b, _⟩ => goodBody b
  | .unknownRequestCode code ⟨b, _⟩ => unknownCode code && goodBody b
  | .replyRead ⟨clocked, _⟩ => 1 ≤ clocked
  | .status _ _ r => goodReport r
  | .amendData _ _ _ severity text =>
    severity.all (· ≤ 7) && text.all goodText
  | .requestFrameError ⟨received, _⟩ =>
    match received with
    | [] => false
    | code :: _ => code != readCode && !frameGood received
  | .ack _ _ | .ackBurst _ _ | .ackSingle _ _ | .nak _ _ | .noAnswer _ | .fieldResponseTimeout _
  | .windowRunOut _ | .travelLimitReached _ | .noticeTimerReachesL _ | .noticeWaitRunOut _
  | .sweepMinimumRun _ | .sweepOverdueRun _ | .detectorRise _ | .detectorFall _
  | .stuckLimitReached _ | .hostIntervalRunOut | .settleTimeout | .passTimeSecond | .mainsLoss
  | .mainsReturn | .resetPinAsserted | .resetPinReleased | .backupDomainLost => true

end Sys2Proof
end

