-- ==== Sys2Proof/Machine/Lines.lean ====
section
/-! DEFINITION. Field Line Controllers: rounds, work opportunities, answers, misses, losses, transfers
and gate orders on the four lines (chapter 3). -/

namespace Sys2Proof.Machine

/-! ### Rounds and work opportunities (R50, R51) -/

/-- The planned addresses of a line, ascending. -/
def Road.plannedOn (r : Road) (l : Fin 4) : List (Fin 12) :=
  (List.finRange 12).filter fun a => (r.link ⟨l, a⟩).kind.isSome

/-- The address polled next: the next planned one above the poll pointer, or the lowest (R50). -/
def Road.nextPoll (r : Road) (l : Fin 4) : Option (Fin 12) :=
  let planned := r.plannedOn l
  match (r.line l).pointer with
  | none => planned.head?
  | some p => (planned.find? fun a => p.val < a.val).orElse fun _ => planned.head?

/-- Send a frame: the exchange is in flight (R44). -/
def Road.send (r : Road) (l : Fin 4) (a : Fin 12) (s : Sent) : Road :=
  r.setLine l { r.line l with inFlight := some { addr := a, sent := s, ms := 0 } }

/-- Begin a round: POLL to the next planned address; a line with none sends nothing (R50). -/
def Road.startRound (l : Fin 4) (r : Road) : Road :=
  match r.nextPoll l with
  | none => r
  | some a => (r.setLine l { r.line l with pointer := some a }).send l a .poll

/-- The oldest gate order for an ONLINE unit (R51). -/
def Road.orderDue (r : Road) (l : Fin 4) : Option GateOrder :=
  (r.line l).orders.find? fun o => r.online ⟨l, o.addr⟩

/-- Take the head entry's next transfer for a line, when it has one, and send its first exchange
(R51, R56); with none the line begins its next round. -/
def Road.newTransfer (e : Env) (l : Fin 4) (r : Road) : Road :=
  match takeTransfer e l r.looks r with
  | (r, some t) => (r.setLine l { r.line l with transfer := some t }).send l t.addr .work
  | (r, none) => r.startRound l

/-- A work opportunity: a gate order, the transfer in progress, a new transfer, or no work (R51). -/
def Road.workOpportunity (e : Env) (l : Fin 4) (r : Road) : Road :=
  match r.orderDue l with
  | some o => r.send l o.addr (.gateOrder o.dir)
  | none =>
    match (r.line l).transfer with
    | some t => r.send l t.addr .work
    | none => r.newTransfer e l

/-- What follows an exchange: a poll gives a work opportunity, a work exchange the next round (R50). -/
def Road.afterExchange (e : Env) (l : Fin 4) (sent : Sent) (r : Road) : Road :=
  match sent with
  | .poll => r.workOpportunity e l
  | .gateOrder _ | .work => r.startRound l

/-! ### Transfers (R56 to R63) -/

/-- Put the line's transfer at a step, no try of it used. -/
def Road.toStep (l : Fin 4) (t : Transfer) (s : XStep) (r : Road) : Road :=
  r.setLine l { r.line l with transfer := some { t with step := s, tries := 0 } }

/-- The transfer has ended: its record is empty (R56). -/
def Road.endTransfer (l : Fin 4) (r : Road) : Road :=
  r.setLine l { r.line l with transfer := none }

/-- A try at the transfer's step failed: LOAD and COMMIT are sent three times in all (R57, R60), any
other step fails at once (R58, R59, R61, R62). A try counts as used when it has failed (log 34). -/
def Road.stepFailed (e : Env) (l : Fin 4) (t : Transfer) (r : Road) : Road :=
  let again := (t.step = .load ∨ t.step = .commit) ∧ t.tries + 1 < Config.maxTries
  if again then
    r.setLine l { r.line l with transfer := some { t with tries := t.tries + 1 } }
  else (r.endTransfer l).failed e ⟨l, t.addr⟩ t

/-- The step after a text line's or a burst's ACK, or a textless LOAD's (R57 to R59). -/
def nextStep (im : Image) : XStep → Option XStep
  | .load => if im.text.isEmpty then some .commit else none
  | .burst => some .commit
  | .line i => some (if i + 1 < im.text.length then .line (i + 1) else .commit)
  | .commit | .clear | .fetch => none

/-- An ACK to the transfer's step (R57 to R61). None where that step expects no ACK (R45). -/
def Road.workAck (e : Env) (l : Fin 4) (t : Transfer) (r : Road) : Option Road :=
  match t.kind, t.step with
  | .load im, .commit =>
    some ((r.endTransfer l).committed e ⟨l, t.addr⟩ t.slot im.handle im.version)
  | .load im, s => (nextStep im s).map fun s' => r.toStep l t s'
  | .clear, .clear => some ((r.endTransfer l).cleared ⟨l, t.addr⟩ t.slot)
  | _, _ => none

/-- An ACK_BURST or ACK_SINGLE to a LOAD with text (R57). None for anything else (R45). -/
def Road.workText (l : Fin 4) (t : Transfer) (s : XStep) (r : Road) : Option Road :=
  match t.kind, t.step with
  | .load im, .load => if im.text.isEmpty then none else some (r.toStep l t s)
  | _, _ => none

/-! ### Gate orders (R55) -/

/-- The gate number of a unit. -/
def gateOf (e : Env) (u : UnitId) : Option (Fin 16) := (e.plan.unit u).bind PlanUnit.gateNumber?

/-- A GATE_ORDER was answered: the entry goes, unless replaced in flight and not withdrawn (R54, R55);
the outcome is handed to Section Control with the direction sent. -/
def Road.orderAnswered (e : Env) (l : Fin 4) (a : Fin 12) (sent : Order) (ack : Bool) (r : Road) :
    Road :=
  let x := r.line l
  let keep : GateOrder → Option GateOrder := fun o =>
    if o.addr ≠ a then some o
    else if o.replaced && !o.withdrawn then some { o with replaced := false }
    else none
  let r := r.setLine l { x with orders := x.orders.filterMap keep }
  match gateOf e ⟨l, a⟩ with
  | some g => r.orderOutcome g sent ack
  | none => r

/-- A GATE_ORDER went unanswered: its entry stays in its place, but for a withdrawn one (R54, R55). -/
def Road.orderMissed (l : Fin 4) (a : Fin 12) (r : Road) : Road :=
  let x := r.line l
  let keep : GateOrder → Option GateOrder := fun o =>
    if o.addr ≠ a then some o
    else if o.withdrawn then none
    else some { o with replaced := false }
  r.setLine l { x with orders := x.orders.filterMap keep }

/-! ### Misses and losses (R46, R49) -/

/-- A unit becomes LOST (R49): its transfer and its gate orders end, DE, SC and PW get the loss
notice, and UNIT_LOST is set. -/
def Road.lose (e : Env) (u : UnitId) (r : Road) : Road :=
  let r := r.setLink u { r.link u with state := .lost, misses := Config.lostMisses }
  let x := r.line u.line
  let r := r.setLine u.line
    { x with transfer := x.transfer.filter (fun t => t.addr != u.addr),
             orders := x.orders.filter (fun o => o.addr != u.addr) }
  let r := r.copiesLost e u
  let r := match gateOf e u with
    | some g => r.gateLost g
    | none => r
  ((pathsOf e u).foldl (Road.monitorLost e) (r.readyTests e)).raise .unitLost

/-- An exchange to a unit got no valid answer: a miss. The third makes a SEEKING or ONLINE unit LOST,
and the exchange's own failure is then part of the loss (R46, R49, R56, log 12). -/
def Road.noAnswer (e : Env) (l : Fin 4) (ex : Exchange) (r : Road) : Road :=
  let u : UnitId := ⟨l, ex.addr⟩
  let k := r.link u
  if k.misses + 1 ≥ Config.lostMisses ∧ (k.state = .seeking ∨ k.state = .online) then r.lose e u
  else
    let r := r.setLink u { k with misses := min (k.misses + 1) Config.lostMisses }
    match ex.sent with
    | .poll => r
    | .gateOrder _ => r.orderMissed l ex.addr
    | .work =>
      match (r.line l).transfer with
      | some t => r.stepFailed e l t
      | none => r

/-! ### Answers (R44 to R46) -/

/-- An answer arrives on a line. With no exchange in flight its characters are discarded (R44). With
one, the exchange ends: `take` says what an expected answer does, and an unexpected one, or one with
another unit's address byte, is no answer (R45). Then SC's readiness tests are made (R119) and the
line goes on (R50). That the readiness tests of a gate's STATUS stand after R127's steps in the same event
is the model's choice (log 39). -/
def Road.answered (e : Env) (l : Fin 4) (addr : Byte) (take : Exchange → Road → Option Road)
    (r : Road) : Road :=
  match (r.line l).inFlight with
  | none => r
  | some ex =>
    let ended := r.setLine l { r.line l with inFlight := none }
    let u : UnitId := ⟨l, ex.addr⟩
    let answeredIn := ended.setLink u { ended.link u with misses := 0 }
    let taken := if addr.toNat = ex.addr.val + 1 then take ex answeredIn else none
    ((taken.getD (ended.noAnswer e l ex)).readyTests e).afterExchange e l ex.sent

/-- The exchange on a line ends with no answer (R44, R45). -/
def Road.unanswered (e : Env) (l : Fin 4) (r : Road) : Road :=
  r.answered e l 0 fun _ _ => none

/-- What an ACK does to an exchange that expects one (R45, R55, R57 to R61). The answers a unit gives are
those R64 lists; each is taken here, in takeText, takeNak, takeAmend and takeStatus. -/
def Road.takeAck (e : Env) (l : Fin 4) (ex : Exchange) (r : Road) : Option Road :=
  match ex.sent with
  | .poll => none
  | .gateOrder d => some (r.orderAnswered e l ex.addr d true)
  | .work => (r.line l).transfer.bind fun t => r.workAck e l t

/-- What an ACK_BURST or ACK_SINGLE does to an exchange that expects one (R45, R57). -/
def Road.takeText (l : Fin 4) (s : XStep) (ex : Exchange) (r : Road) : Option Road :=
  match ex.sent with
  | .poll | .gateOrder _ => none
  | .work => (r.line l).transfer.bind fun t => r.workText l t s

/-- What a NAK does: any exchange but a POLL expects one (R45, R55, R57 to R62). -/
def Road.takeNak (e : Env) (l : Fin 4) (ex : Exchange) (r : Road) : Option Road :=
  match ex.sent with
  | .poll => none
  | .gateOrder d => some (r.orderAnswered e l ex.addr d false)
  | .work => (r.line l).transfer.map fun t => r.stepFailed e l t

/-- What an AMEND_DATA with its TEXT frames does: a FETCH expects one (R45, R62). -/
def Road.takeAmend (e : Env) (l : Fin 4) (base : Byte) (severity : Option Nat)
    (text : Option (List (List Byte))) (ex : Exchange) (r : Road) : Option Road :=
  match ex.sent with
  | .poll | .gateOrder _ => none
  | .work =>
    match (r.line l).transfer with
    | some t =>
      match t.kind with
      | .fetch h =>
        if severity.all (· ≤ 7) && text.all goodText then
          some ((r.endTransfer l).fetched e ⟨l, ex.addr⟩ t.slot h base severity text)
        else none
      | .load _ | .clear => none
    | none => none

/-- The kind a report gives. -/
def reportKind : Report → UnitKind
  | .sign _ => .sign
  | .gate .. => .gate
  | .monitor .. => .monitor

/-- Hand a STATUS on by content: the copy slots to DE, position and key to SC, trips and fault to PW,
in that order (R53). A unit that lost power reports its slots empty and is reconciled like any unit
that disagrees (R64). -/
def Road.handOn (e : Env) (u : UnitId) (first : Bool) (rep : Report) (r : Road) : Road :=
  match rep with
  | .sign slots => r.copiesReport e u first slots
  | .gate slots pos key =>
    let r := r.copiesReport e u first slots
    match gateOf e u with
    | some g => r.gateReport e g pos key
    | none => r
  | .monitor trips fault => (pathsOf e u).foldl (Road.monitorReport e trips fault) r

/-- What a STATUS does: a POLL expects one, of the planned kind (R45, R48, R53). A first status makes
the unit ONLINE; one from LOST is its return. -/
def Road.takeStatus (e : Env) (rep : Report) (l : Fin 4) (ex : Exchange) (r : Road) : Option Road :=
  let u : UnitId := ⟨l, ex.addr⟩
  let k := r.link u
  match ex.sent with
  | .gateOrder _ | .work => none
  | .poll =>
    if k.kind = some (reportKind rep) ∧ goodReport rep = true then
      let r := r.setLink u { k with state := .online, last := some rep }
      let r := if k.state = .lost then r.raise .unitBack else r
      some (r.handOn e u (k.state != .online) rep)
    else none

end Sys2Proof.Machine
end

