-- ==== Sys2Proof/Machine/Starts.lean ====
section
/-! DEFINITION. What every block holds after COMMISSION, DECOMMISSION, mains loss and each kind of
start (R28 to R31, R66 to R68, R97, R98, R138 to R140, R150, R151, R166 to R168, R178, R180, R187 to
R191, R201). -/

namespace Sys2Proof.Machine

/-! ### Counts of the plan (R8, R41) -/

/-- How many entries of a vector pass a test. -/
def countIn {α : Type} {n : Nat} (f : α → Bool) (v : Vector α n) : Nat := v.toList.countP f

/-- Planned sections. -/
def Plan.sectionCount (p : Plan) : Nat := countIn (·.isSome) p.sections
/-- Planned GATE units, each counted, also where two carry one gate number (R172, log 37). -/
def Plan.gateCount (p : Plan) : Nat :=
  countIn (fun u => u.any fun x => x.gateNumber?.isSome) p.units
/-- Planned units. -/
def Plan.unitCount (p : Plan) : Nat := countIn (·.isSome) p.units
/-- Planned paths. -/
def Plan.pathCount (p : Plan) : Nat := countIn (·.isSome) p.paths
/-- Detectors assigned to a section. -/
def Plan.detectorCount (p : Plan) : Nat := countIn (·.assign.isSome) p.detectors

/-- The planned GATE unit that carries a gate number: the unit, and its travel limit. -/
def Plan.gateUnit (p : Plan) (g : Fin 16) : Option (UnitId × Nat) :=
  (allUnits.filterMap fun u =>
    match p.unit u with
    | some (.gate _ _ n t) => if n = g then some (u, t) else none
    | _ => none).head?

/-- The section a gate is an entry gate of. -/
def Plan.gateSection (p : Plan) (g : Fin 16) : Option (Fin 8) :=
  allSections.find? fun i => (p.sec i).any fun x => x.gates.contains g

/-! ### Records made from the plan -/

/-- The link records of a commissioned plan: every planned address SEEKING (R67, R68). -/
def seekingLinks (p : Plan) : Vector Link 48 :=
  vofFn fun i =>
    match vget p.units i with
    | some u => { kind := some u.kind, state := .seeking, misses := 0, last := none }
    | none => Link.unplanned

/-- One UNKNOWN directory record for each copy slot of each planned SIGN and GATE (R97, R98). -/
def unknownDir (p : Plan) : Vector (List CopySlot) 48 :=
  vofFn fun i =>
    match vget p.units i with
    | some u => List.replicate (slotCount u.kind) .unknown
    | none => []

/-- A section record in a state with every timer stopped (R138). -/
def SectionRec.at (st : SecState) : SectionRec :=
  { state := st, notice := none, sweepMin := none, sweepOver := none, overdue := false }

/-- A gate record whose unit has not reported: UNKNOWN, IDLE, with a standing order and a FIELD link
(R138, R139). -/
def GateRec.unreported (sec : Fin 8) (u : UnitId) (travel : Nat) (standing : Order)
    (link : Option Handle) : GateRec :=
  { sec := sec, unit := u, travel := travel, pos := .unknown, reported := none, key := none,
    standing := standing, phase := .idle, timer := none, link := link, retried := false }

/-- The gate records of a plan, with standing orders and links from records held before (R138,
R139). -/
def gateRecords (p : Plan) (held : Vector (Option GateRec) 16) : Vector (Option GateRec) 16 :=
  vofFn fun g =>
    match p.gateUnit g, p.gateSection g with
    | some (u, t), some i =>
      match vget held g with
      | some x => some (GateRec.unreported i u t x.standing x.link)
      | none => some (GateRec.unreported i u t .toOpen none)
    | _, _ => none

/-- Every section's occupancy UNKNOWN (R150, R151). -/
def unknownOcc (p : Plan) : Vector (Option Occ) 8 := vofFn fun i => (p.sec i).map fun _ => .unknown

/-- Every input put to work or UNUSED, its level sampled (R150, R151). -/
def workingInputs (p : Plan) (pins : Vector Level 16) : Vector InputRec 16 :=
  vofFn fun i => InputRec.putToWork (p.detector i) (vget pins i)

/-- A path record that waits for its monitor, or is UNWATCHED (R154, R155, R166, R167). -/
def PathRec.start (p : PlanPath) (level : Nat) (link : Option Handle)
    (last : Option (AutoCause × Nat)) : PathRec :=
  { watch := if p.monitor.isSome then .waiting else .unwatched, level := level, timer := none,
    count := 0, baseline := none, link := link, last := last }

/-- Every line with a planned unit begins its first round (R67, R68). -/
def Road.firstRounds (r : Road) : Road := (List.finRange 4).foldl (fun r l => r.startRound l) r

/-! ### COMMISSION and DECOMMISSION (R178, R180) -/

/-- Every block takes up the plan (R178). Slots, flags and the free-value counter stay. -/
def Road.commissioned (p : Plan) (pins : Vector Level 16) (r : Road) : Road :=
  Road.firstRounds
    { r with
      reserve := p.pathCount + p.gateCount
      dir := unknownDir p
      awaiting := Vector.replicate 48 false
      queue := []
      work := none
      settle := none
      links := seekingLinks p
      lines := Vector.replicate 4 Line.silent
      sections := vofFn fun i => (p.sec i).map fun _ => SectionRec.at .isOpen
      gates := gateRecords p (Vector.replicate 16 none)
      inputs := workingInputs p pins
      occ := unknownOcc p
      paths := vofFn fun i => (p.path i).map fun x => PathRec.start x 0 none none }

/-- Every posting freed with no notice, generations and versions kept (R31). -/
def emptiedSlots (slots : Vector Slot 256) : Vector Slot 256 :=
  ⟨⟨slots.toList.map fun x => { x with posting := none }⟩, by simp⟩

/-- The blocks with no records, over a table (R31, R66, R97, R138, R140, R150, R166, R168, R180). -/
def Road.idle (slots : Vector Slot 256) (r : Road) : Road :=
  { Road.cold with slots := slots, flags := r.flags, fresh := r.fresh }

/-- Every block lets go of the plan (R180). -/
def Road.decommissioned (r : Road) : Road := r.idle (emptiedSlots r.slots)

/-! ### Mains loss, the reset pin and the starts (R187 to R191) -/

/-- A section record as the backup domain holds it: its state (R139, R188). -/
def SectionRec.held (x : SectionRec) : SectionRec := SectionRec.at x.state

/-- A gate record as the backup domain holds it: standing order and FIELD link (R139, R188). -/
def GateRec.held (x : GateRec) : GateRec :=
  GateRec.unreported x.sec x.unit x.travel x.standing x.link

/-- A path record as the backup domain holds it: AUTO link and last action (R167, R188). The danger
level is read from the table again at the start. -/
def PathRec.held (x : PathRec) : PathRec :=
  { watch := match x.watch with
      | .unwatched => .unwatched
      | .waiting | .quiet | .counting | .silent => .waiting,
    level := x.level, timer := none, count := 0, baseline := none, link := x.link, last := x.last }

/-- The road blocks while stopped: what the backup domain holds, and nothing else (R68, R98, R139,
R151, R167, R187, R188, R201). -/
def Road.stopped (r : Road) : Road :=
  { r with
    dir := Vector.replicate 48 []
    awaiting := Vector.replicate 48 false
    queue := []
    work := none
    settle := none
    links := Vector.replicate 48 Link.unplanned
    lines := Vector.replicate 4 Line.silent
    sections := vofFn fun i => (vget r.sections i).map SectionRec.held
    gates := vofFn fun g => (vget r.gates g).map GateRec.held
    inputs := Vector.replicate 16 InputRec.unused
    occ := Vector.replicate 8 none
    paths := vofFn fun p => (vget r.paths p).map PathRec.held
    flags := 0 }

/-- The port while stopped: buffers, port state and interval timer lost; enables, master enable, mode
and interval setting held (R188, R201). -/
def Port.stopped (p : Port) : Port :=
  { p with state := .ready, reply := none, buffer := [], timer := none, overtaken := false }

/-- Stop the blocks, as mains loss and the reset pin do (R187, R190). -/
def State.stop (s : State) : State :=
  { s with cru := { s.cru with working := false }, port := s.port.stopped, road := s.road.stopped }

/-- The interval timer as it restarts: at zero in ATTENDED with a setting, otherwise stopped (R199). -/
def Port.restarted (p : Port) : Option Nat :=
  if p.mode = .attended ∧ p.interval ≠ 0 then some 0 else none

/-- The cold start (R191): nothing is kept but the levels of pins and supply, the waiting commands, the
free-value counter, and the oscillator's place in the second, which runs on (log 10). -/
def State.coldStart (s : State) : State :=
  { cru := { s.cru with passTime := 0, timeValid := false, startCause := .cold, intact := true,
                        working := true, mainsLost := false },
    plan := Plan.empty, part := .planning,
    port := { Port.cold with out := s.port.out },
    road := { Road.cold with flags := Flag.start.bit, fresh := s.road.fresh },
    pins := s.pins, pending := s.pending }

/-- A retained section at a warm start: NOTICE and SWEEP timers from zero, a sweep minimum of 0 run
at once (R139). -/
def SectionRec.warm (p : PlanSection) (x : SectionRec) : SectionRec :=
  match x.state with
  | .notice => { SectionRec.at .notice with notice := some 0 }
  | .sweep =>
    { SectionRec.at .sweep with sweepMin := if p.sweepMin = 0 then none else some 0,
                                sweepOver := some 0 }
  | .isOpen | .shutting | .closed | .clearable | .opening => SectionRec.at x.state

/-- The blocks at a warm start in RUNNING, before Section Control's readiness tests (R30, R68, R98,
R139, R151, R167). -/
def Road.warmRecords (p : Plan) (pins : Vector Level 16) (r : Road) : Road :=
  { r with
    dir := unknownDir p
    awaiting := Vector.replicate 48 false
    queue := []
    work := none
    settle := none
    links := seekingLinks p
    lines := Vector.replicate 4 Line.silent
    sections := vofFn fun i => (p.sec i).bind fun x => (r.sec i).map (SectionRec.warm x)
    gates := gateRecords p r.gates
    inputs := workingInputs p pins
    occ := unknownOcc p
    paths := vofFn fun i => (p.path i).bind fun x =>
      (r.path i).map fun y => PathRec.start x (r.tableLevel i) y.link y.last
    flags := Flag.start.bit }

/-- A NOTICE section whose L is 0 is tested in the start event itself (R139). -/
def Road.warmNotice (e : Env) (r : Road) (i : Fin 8) : Road :=
  if r.secState i = some .notice ∧ leadMs e i = 0 then r.leadRun e i else r

/-- The blocks at a warm start in RUNNING (R191). -/
def Road.warmRunning (e : Env) (pins : Vector Level 16) (r : Road) : Road :=
  Road.firstRounds (allSections.foldl (Road.warmNotice e) (r.warmRecords e.plan pins))

/-- The warm start (R191): RUNNING blocks from the plan and the backup domain, PLANNING blocks with
no records over the held table. -/
def State.warmStart (cause : StartCause) (s : State) : State :=
  let port := { s.port with state := .ready, reply := none, buffer := [], timer := s.port.restarted,
                            overtaken := false }
  let road := match s.part with
    | .running => s.road.warmRunning s.env s.pins
    | .planning =>
      { s.road.idle s.road.slots with flags := Flag.start.bit, freeLines := s.road.freeLines,
                                      reserve := s.road.reserve }
  { s with cru := { s.cru with startCause := cause, working := true, mainsLost := false },
           port := port, road := road }

/-- A start: the check word chooses between warm and cold (R189, R190). -/
def State.start (cause : StartCause) (s : State) : State :=
  if s.cru.intact then s.warmStart cause else s.coldStart

end Sys2Proof.Machine
end

