-- ==== Sys2Proof/Machine/Operands.lean ====
section
/-! DEFINITION. The operands of a request: body layouts of R203 and chapter 12.1, read field by field.
A body is well formed when its layout consumes every byte of it. -/

namespace Sys2Proof.Machine

/-- A reader of body bytes; none is a fault of form (R203). -/
abbrev Parse (α : Type) := StateT (List Byte) Option α

/-- Read a whole body: none when it is longer than the port stores, breaks the layout, or has bytes
left over (R203). -/
def readBody {α : Type} (p : Parse α) (body : List Byte) : Option α :=
  if body.length ≤ Config.storedBody then
    match p body with
    | some (x, []) => some x
    | _ => none
  else none

/-! ### Fields (R203) -/

/-- One byte. -/
def aByte : Parse Byte := fun l =>
  match l with
  | [] => none
  | b :: bs => some (b, bs)

/-- A number of one byte. -/
def num1 : Parse Nat := do return (← aByte).toNat
/-- A number of two bytes, most significant first (R202). -/
def num2 : Parse Nat := do
  let a ← aByte
  let b ← aByte
  return beNat [a, b]
/-- A number of four bytes, most significant first (R202). -/
def num4 : Parse Nat := do
  let a ← aByte
  let b ← aByte
  let c ← aByte
  let d ← aByte
  return beNat [a, b, c, d]

/-- A fault of form unless a test holds. -/
def must (t : Bool) : Parse Unit := fun l => if t then some ((), l) else none

/-- A named value: its place in a list of `n` (R203). -/
def named (n : Nat) : Parse Nat := do
  let k ← num1
  must (decide (k < n))
  return k

/-- A selection of named values from a list of `n` ≤ 8 (R203). -/
def selection (n : Nat) : Parse Nat := do
  let k ← num1
  must (decide (k < 2 ^ n))
  return k

/-- An option or presence byte: 00h or 01h (R203). -/
def given : Parse Bool := do return (← named 2) == 1

/-- An optional field behind its presence byte (R203). -/
def optional {α : Type} (p : Parse α) : Parse (Option α) := do
  if ← given then return some (← p) else return none

/-- `n` items in a row. -/
def items {α : Type} (p : Parse α) : Nat → Parse (List α)
  | 0 => pure []
  | n + 1 => do
    let x ← p
    return x :: (← items p n)

/-- A list behind its count byte (R203). -/
def counted {α : Type} (p : Parse α) : Parse (List α) := do items p (← num1)

/-- A text: a line count, then each line as a character count and its characters (12.1). -/
def textField : Parse (List (List Byte)) := counted (counted aByte)

/-- The byte that stands for an absent detail, urgency, path or cause (R203). -/
def absentByte : Nat := 255

/-- A detail as the posting image codes it; FFh absent (12.1). -/
def detailField : Parse (Option Nat) := do
  let k ← num1
  return if k = absentByte then none else some k

/-- An urgency; FFh absent (12.1). Any other value beyond the list is a fault of form. -/
def urgencyField : Parse (Option Urgency) := do
  let k ← num1
  must (k == 0 || k == 1 || k == absentByte)
  return if k = 0 then some .noticed else if k = 1 then some .immediate else none

/-- Kinds by their place in kind order. -/
def kindAt : Nat → PKind
  | 0 => .closure
  | 1 => .danger
  | 2 => .restriction
  | 3 => .limit
  | _ => .notice

/-- A kind (R203). -/
def kindField : Parse PKind := do return kindAt (← named 5)

/-- A direction, SOUTHWARD or NORTHWARD. -/
def dirField : Parse Dir := do return if (← named 2) = 0 then .south else .north

/-- A handle as two bytes (R203): slot, generation. A generation above 15 names nothing (log 19). -/
def handleField : Parse (Option Handle) := do
  let slot ← aByte
  let gen ← aByte
  return if gen.toNat ≤ 15 then some ⟨slot.toFin, gen.setWidth 4⟩ else none

/-- A unit's line and address, two bytes; none when out of range. -/
def unitField : Parse (Option UnitId) := do
  let line ← num1
  let addr ← num1
  return if h : line < 4 ∧ 1 ≤ addr ∧ addr ≤ 12 then
    some ⟨⟨line, h.1⟩, ⟨addr - 1, by have := h.2; omega⟩⟩ else none

/-- A number below `n`; none when out of range. -/
def indexBelow (n : Nat) (k : Nat) : Option (Fin n) := if h : k < n then some ⟨k, h⟩ else none

/-- An index of one byte, a fault when it is not below `n`. -/
def index (n : Nat) : Parse (Fin n) := fun l =>
  match l with
  | [] => none
  | b :: bs => (indexBelow n b.toNat).map fun i => (i, bs)

/-- A unit of the plan's address range, a fault when out of range. -/
def unitIn : Parse UnitId := do
  match ← unitField with
  | some u => return u
  | none => fun _ => none

/-- A number of one byte within a range. -/
def within1 (lo hi : Nat) : Parse Nat := do
  let k ← num1
  must (decide (lo ≤ k ∧ k ≤ hi))
  return k

/-- A number of two bytes within a range. -/
def within2 (lo hi : Nat) : Parse Nat := do
  let k ← num2
  must (decide (lo ≤ k ∧ k ≤ hi))
  return k

/-- A number of four bytes within a range. -/
def within4 (lo hi : Nat) : Parse Nat := do
  let k ← num4
  must (decide (lo ≤ k ∧ k ≤ hi))
  return k

/-- A non-empty selection of the five kinds. -/
def kindMask : Parse (BitVec 5) := do
  let k ← selection 5
  must (k != 0)
  return BitVec.ofNat 5 k

/-! ### POST and CHANGE bodies (12.1) -/

/-- Where a POST is: a span, or a path (12.1). -/
inductive Place where
  | span (first last : Nat)
  | path (p : Nat)
  deriving DecidableEq, Repr

/-- The fields of a POST (R21). -/
structure PostBody where
  kind     : PKind
  place    : Place
  severity : Nat
  detail   : Option Nat
  urgency  : Option Urgency
  text     : List (List Byte)
  start    : Option Nat
  expiry   : Option Nat
  pin      : Option Nat
  deriving DecidableEq, Repr

/-- A span-or-path field (12.1). -/
def placeField : Parse Place := do
  if ← given then return .path (← num1)
  else
    let first ← num1
    return .span first (← num1)

/-- The POST body (12.1). -/
def postBody : Parse PostBody := do
  let kind ← kindField
  let place ← placeField
  let severity ← num1
  let detail ← detailField
  let urgency ← urgencyField
  let text ← textField
  let start ← optional num4
  let expiry ← optional num4
  let pin ← optional num4
  return { kind, place, severity, detail, urgency, text, start, expiry, pin }

/-- The fields of a CHANGE (R24): each absent when it is not selected. -/
structure ChangeBody where
  handle       : Option Handle
  kind         : Option PKind
  span         : Option (Nat × Nat)
  severity     : Option Nat
  detail       : Option (Option Nat)
  urgency      : Option (Option Urgency)
  text         : Option (List (List Byte))
  start        : Option Nat
  expiry       : Option Nat
  pin          : Option Nat
  removeExpiry : Bool
  removePin    : Bool
  overrule     : Bool
  deriving DecidableEq, Repr

/-- A field that stands in the body exactly when its bit is set. -/
def selected {α : Type} (sel place : Nat) (p : Parse α) : Parse (Option α) := do
  if sel.testBit place then return some (← p) else return none

/-- A span of two bytes. -/
def spanField : Parse (Nat × Nat) := do
  let first ← num1
  return (first, ← num1)

/-- A restriction class is a named value (1.1, R203): a body that makes its detail a class by giving the
kind too must name one of the list. Where the body gives no kind, R25 checks the class (log 19). -/
def classListed (kind : Option PKind) (detail : Option (Option Nat)) : Bool :=
  kind != some .restriction || detail.all fun d => d.all (· ≤ 3)

/-- The CHANGE body (12.1). -/
def changeBody : Parse ChangeBody := do
  let handle ← handleField
  let sel ← num2
  must (decide (sel < 2 ^ 12))
  let kind ← selected sel 0 kindField
  let span ← selected sel 1 spanField
  let severity ← selected sel 2 num1
  let detail ← selected sel 3 detailField
  let urgency ← selected sel 4 urgencyField
  let text ← selected sel 5 textField
  let start ← selected sel 6 num4
  let expiry ← selected sel 7 num4
  let pin ← selected sel 8 num4
  must (classListed kind detail)
  return { handle, kind, span, severity, detail, urgency, text, start, expiry, pin,
           removeExpiry := sel.testBit 9, removePin := sel.testBit 10,
           overrule := sel.testBit 11 }

/-- The RETIRE body: a handle and the overrule option (R27). -/
def retireBody : Parse (Option Handle × Bool) := do
  let h ← handleField
  return (h, ← given)

/-! ### SCAN and WALK bodies (R34, R39) -/

/-- The severity tests of R32. -/
inductive SevTest where
  | any | eq | ne | ge | gt | le | lt
  deriving DecidableEq, Repr

/-- Severity tests by their place in the table of R32. -/
def sevTestAt : Nat → SevTest
  | 0 => .any
  | 1 => .eq
  | 2 => .ne
  | 3 => .ge
  | 4 => .gt
  | 5 => .le
  | _ => .lt

/-- The operands of a SCAN (R34). -/
structure ScanBody where
  start   : Nat
  dir     : Dir
  count   : Nat
  mask    : BitVec 5
  pending : Bool
  test    : SevTest
  value   : Nat
  clear   : Bool
  deriving DecidableEq, Repr

/-- The SCAN body: the state set and the mode are named values of two places (R203, log 18). -/
def scanBody : Parse ScanBody := do
  let start ← num1
  let dir ← dirField
  let count ← within1 1 64
  let mask ← kindMask
  let states ← named 2
  let test ← named 7
  let value ← num1
  must (decide (sevTestAt test = .any ∨ value ≤ 7))
  let mode ← named 2
  return { start, dir, count, mask, pending := states == 1, test := sevTestAt test, value,
           clear := mode == 1 }

/-- The operands of a WALK (R39): bit i of each set is the value in place i of its list. -/
structure WalkBody where
  slot        : Nat
  kinds       : BitVec 5
  states      : Nat
  authorities : Nat
  deriving DecidableEq, Repr

/-- The WALK body (R39). -/
def walkBody : Parse WalkBody := do
  let slot ← num1
  let kinds ← kindMask
  let states ← selection 3
  must (states != 0)
  let authorities ← selection 3
  must (authorities != 0)
  return { slot, kinds, states, authorities }

/-! ### Plan items (R171 to R176, log 16) -/

/-- A view and a kind mask (R172). -/
def viewField : Parse (View × BitVec 5) := do
  let first ← within1 0 63
  let dir ← dirField
  let len ← within1 1 16
  return ({ first, dir, len }, ← kindMask)

/-- The items of a unit of a kind (R172). -/
def planUnitItems : Parse PlanUnit := do
  match ← named 3 with
  | 0 =>
    let (v, m) ← viewField
    return .sign v m
  | 1 =>
    let (v, m) ← viewField
    let g ← index 16
    return .gate v m g (← within1 10 240)
  | _ => return .monitor

/-- The PLAN_UNIT body: line, address, then removal or the unit (R172). -/
def planUnitBody : Parse (UnitId × Option PlanUnit) := do
  let u ← unitIn
  return (u, ← optional planUnitItems)

/-- A list names nothing twice. -/
def distinct {α : Type} [DecidableEq α] (l : List α) : Bool := decide l.Nodup

/-- The items of a section (R173). -/
def planSectionItems : Parse PlanSection := do
  let first ← within1 0 63
  let last ← within1 0 63
  must (decide (first ≤ last))
  let gates ← counted (index 16)
  must (decide (1 ≤ gates.length ∧ gates.length ≤ 2) && distinct gates)
  let approach ← counted unitIn
  must (decide (approach.length ≤ 6) && distinct approach)
  let lead ← within2 0 900
  let wait ← within2 0 600
  let sweepMin ← within2 0 1800
  let sweepOver ← within2 60 7200
  return { first, last, gates, approach, lead, wait, sweepMin, sweepOver }

/-- The PLAN_SECTION body (R173). -/
def planSectionBody : Parse (Fin 8 × Option PlanSection) := do
  let i ← index 8
  return (i, ← optional planSectionItems)

/-- A section and a sense (R174). -/
def assignField : Parse (Fin 8 × Sense) := do
  let s ← index 8
  return (s, if (← named 2) = 0 then .into else .out)

/-- The PLAN_DETECTOR body (R174): times not given take their defaults. -/
def planDetectorBody : Parse (Fin 16 × PlanDetector) := do
  let i ← index 16
  let assign ← optional assignField
  let minPulse ← optional (within2 20 500)
  let stuck ← optional (within1 5 120)
  return (i, { assign, minPulse := minPulse.getD 60, stuck := stuck.getD 30 })

/-- Put a number in its place in an ascending list. -/
def insertUp (n : Nat) : List Nat → List Nat
  | [] => [n]
  | m :: ms => if n ≤ m then n :: m :: ms else m :: insertUp n ms

/-- A list in ascending order. -/
def ascending : List Nat → List Nat
  | [] => []
  | n :: ns => insertUp n (ascending ns)

/-- The items of a path (R175). -/
def planPathItems : Parse PlanPath := do
  let segs ← counted (within1 0 63)
  must (decide (1 ≤ segs.length ∧ segs.length ≤ 4) && distinct segs)
  let monitor ← optional unitIn
  let thresholds ← items (within1 0 15) 5
  let window ← within2 10 600
  let hold ← within4 60 86400
  let silent ← within1 0 5
  return { segs := ascending segs, monitor, thresholds, window, hold, silent }

/-- The PLAN_PATH body (R175). -/
def planPathBody : Parse (Fin 24 × Option PlanPath) := do
  let i ← index 24
  return (i, ← optional planPathItems)

/-- What READ_PLAN asks for (R176). -/
inductive PlanAsk where
  | road
  | unit (u : UnitId)
  | sec (i : Fin 8)
  | detector (i : Fin 16)
  | path (i : Fin 24)
  deriving DecidableEq, Repr

/-- The READ_PLAN body: a class, then its index (R176). ROAD has no index, and no presence byte stands for
it, for the class fixes the length: the model's choice (log 40). -/
def readPlanBody : Parse PlanAsk := do
  match ← named 5 with
  | 0 => return .road
  | 1 => return .unit (← unitIn)
  | 2 => return .sec (← index 8)
  | 3 => return .detector (← index 16)
  | _ => return .path (← index 24)

/-! ### Station port and clock (R184, R197, R200) -/

/-- The SET_ENABLES body: a set of flags and the master enable, a named value listed "on or off"
(R197, R203). -/
def enablesBody : Parse (BitVec 14 × Bool) := do
  let set ← num2
  must (decide (set < 2 ^ 14))
  let master ← named 2
  return (BitVec.ofNat 14 set, master == 0)

/-- The ATTEND body: 0 or 10..3600 (R200). -/
def attendBody : Parse Nat := do
  let n ← num2
  must (decide (n = 0 ∨ (10 ≤ n ∧ n ≤ 3600)))
  return n

/-- The body of a request that takes none. -/
def noBody : Parse Unit := pure ()

end Sys2Proof.Machine
end

