-- ==== Sys2Proof/Machine/Replies.lean ====
section
/-! DEFINITION. Replies as bytes: the codes and widths of R202, R203 and chapter 12.1, and the reply
frame of R194. Where those leave a layout open, log 15 and log 17 say what is done. -/

namespace Sys2Proof.Machine

/-! ### Codes: the place of each value in its list (R203) -/

/-- Result codes (R202). -/
def Result.code : Result → Nat
  | .done => 0x00 | .settled => 0x01 | .none => 0x02 | .badRequest => 0x03 | .badState => 0x04
  | .badPlan => 0x05 | .stale => 0x06 | .retired => 0x07 | .full => 0x08 | .textFull => 0x09
  | .amended => 0x0A | .pinned => 0x0B | .authority => 0x0C | .duplicate => 0x0D
  | .notClear => 0x0E | .timeout => 0x0F | .aborted => 0x10 | .frameError => 0x11

/-- Posting states as the posting image codes them; FREE is 0 (12.1). -/
def PState.code : PState → Nat
  | .pending => 1 | .active => 2 | .retiring => 3
/-- Authorities (12.1). -/
def Authority.code : Authority → Nat
  | .station => 0 | .auto => 1 | .field => 2
/-- Urgencies (12.1). -/
def Urgency.code : Urgency → Nat
  | .noticed => 0 | .immediate => 1
/-- Retire causes (12.1). -/
def RetireCause.code : RetireCause → Nat
  | .host => 0 | .expired => 1 | .keyReturn => 2
/-- Directions. -/
def Dir.code : Dir → Nat
  | .south => 0 | .north => 1
/-- Senses. -/
def Sense.code : Sense → Nat
  | .into => 0 | .out => 1
/-- Part states. -/
def PartState.code : PartState → Nat
  | .planning => 0 | .running => 1
/-- Modes. -/
def Mode.code : Mode → Nat
  | .attended => 0 | .unattended => 1
/-- Unit kinds (12.2). -/
def unitKindCode : UnitKind → Nat
  | .sign => 0 | .gate => 1 | .monitor => 2
/-- Link states (R47). -/
def LinkState.code : LinkState → Nat
  | .unplanned => 0 | .seeking => 1 | .online => 2 | .lost => 3
/-- Section states (R114). -/
def SecState.code : SecState → Nat
  | .isOpen => 0 | .notice => 1 | .shutting => 2 | .sweep => 3 | .closed => 4 | .clearable => 5
  | .opening => 6
/-- Position states (R126). -/
def PosState.code : PosState → Nat
  | .unknown => 0 | .isOpen => 1 | .closed => 2 | .moving => 3 | .jammed => 4 | .fault => 5
/-- Reported positions (12.2). -/
def gatePosCode : GatePos → Nat
  | .isOpen => 0 | .closed => 1 | .moving => 2 | .fault => 3
/-- Key modes (12.2). -/
def keyCode : KeyMode → Nat
  | .remote => 0 | .atPanel => 1
/-- Orders: OPEN, CLOSE (12.2). -/
def Order.code : Order → Nat
  | .toOpen => 0 | .toClose => 1
/-- Order phases (R126). -/
def OrderPhase.code : OrderPhase → Nat
  | .idle => 0 | .pending => 1 | .travelling => 2
/-- Input states (R142). -/
def InState.code : InState → Nat
  | .unused => 0 | .working => 1 | .stuck => 2
/-- Levels. -/
def Level.code : Level → Nat
  | .low => 0 | .high => 1
/-- Watch states (R152). -/
def Watch.code : Watch → Nat
  | .unwatched => 0 | .waiting => 1 | .quiet => 2 | .counting => 3 | .silent => 4
/-- Causes of an AUTO action (R152). -/
def AutoCause.code : AutoCause → Nat
  | .trip => 0 | .silent => 1
/-- Start causes (chapter 10). -/
def StartCause.code : StartCause → Nat
  | .cold => 0 | .warmMain => 1 | .warmPin => 2
/-- Item classes, in the order the plan checks name them (R177). -/
def PlanClass.code : PlanClass → Nat
  | .road => 0 | .unit => 1 | .gate => 2 | .sec => 3 | .detector => 4 | .path => 5

/-! ### Fields -/

/-- A two-valued mark (log 15). -/
def mark (b : Bool) : List Byte := u8 b.toNat

/-- An optional field behind its presence byte (R203). -/
def present {α : Type} (f : α → List Byte) : Option α → List Byte
  | none => [0x00]
  | some x => 0x01 :: f x

/-- A field that sends FFh when absent (R203). -/
def orAbsent (x : Option Nat) : List Byte := u8 (x.getD absentByte)

/-- A handle (R203). -/
def handleBytes (h : Handle) : List Byte := u8 h.slot.val ++ u8 h.gen.toNat

/-- A line and address (R203). -/
def unitBytes (u : UnitId) : List Byte := u8 u.line.val ++ u8 (u.addr.val + 1)

/-- A list behind its count byte (R203). -/
def listBytes {α : Type} (f : α → List Byte) (l : List α) : List Byte :=
  u8 l.length ++ l.flatMap f

/-- A text line: its count, then its characters (12.1). -/
def lineBytes (l : List Byte) : List Byte := u8 l.length ++ l

/-- A set of attention flags (R202). -/
def flagBytes (f : BitVec 14) : List Byte := be16 f.toNat

/-- An occupancy: KNOWN with its two-byte count, or UNKNOWN alone (R146, R203, log 17). -/
def occBytes : Occ → List Byte
  | .known n => u8 0 ++ be16 n
  | .unknown => u8 1

/-! ### Records (12.1, 12.2) -/

/-- The short posting image of an image (12.1). -/
def Image.short (x : Image) : List Byte :=
  handleBytes x.handle ++ [x.version] ++ u8 x.kind.rank ++ u8 x.first ++ u8 x.last ++ u8 x.severity
    ++ orAbsent x.detail ++ orAbsent (x.urgency.map Urgency.code) ++ u8 x.text.length

/-- The full posting image (12.1). -/
def PostingView.bytes (v : PostingView) : List Byte :=
  let p := v.posting
  Image.short { handle := v.handle, version := v.version, kind := p.kind, first := p.first,
                last := p.last, severity := p.severity, detail := p.detail, urgency := p.urgency,
                text := p.text }
    ++ u8 p.state.code ++ u8 p.authority.code ++ orAbsent p.path ++ present be32 p.start
    ++ present be32 p.expiry ++ present be32 p.pin ++ orAbsent (p.cause.map RetireCause.code)
    ++ present unitBytes p.source ++ p.text.flatMap lineBytes

/-- A slot record of a STATUS (12.2); the bytes of an empty one read as 00h (R204). -/
def slotReportBytes : SlotReport → List Byte
  | .empty => [0x00, 0x00, 0x00, 0x00]
  | .held h v am => (if am then 0x02 else 0x01) :: handleBytes h ++ [v]

/-- A STATUS body (12.2). -/
def reportBytes : Report → List Byte
  | .sign slots => u8 0 ++ slots.flatMap slotReportBytes
  | .gate slots pos key =>
    u8 1 ++ slots.flatMap slotReportBytes ++ u8 (gatePosCode pos) ++ u8 (keyCode key)
  | .monitor trips fault => u8 2 ++ [trips] ++ mark fault

/-- A directory record (R65, R69): slot state, handle, version held, base version. -/
def CopySlot.bytes : CopySlot → List Byte
  | .empty => u8 0 ++ [0x00, 0x00, 0x00]
  | .current h v => u8 1 ++ present handleBytes (some h) ++ present (fun b => [b]) (some v) ++ [0x00]
  | .behind h v => u8 2 ++ present handleBytes (some h) ++ present (fun b => [b]) (some v) ++ [0x00]
  | .amended h b =>
    u8 3 ++ present handleBytes (some h) ++ present (fun b => [b]) (some b)
      ++ present (fun b => [b]) (some b)
  | .overruled h b =>
    u8 4 ++ present handleBytes (some h) ++ present (fun b => [b]) (some b)
      ++ present (fun b => [b]) (some b)
  | .unknown => u8 5 ++ [0x00, 0x00, 0x00]

/-- A transfer kind (R56). -/
def XKind.code : XKind → Nat
  | .load _ => 0
  | .clear => 1
  | .fetch _ => 2

/-- A transfer step (R56): LOAD, TEXT with the index of the next line, COMMIT, CLEAR, FETCH. -/
def XStep.bytes : XStep → List Byte
  | .load => u8 0
  | .burst => u8 1 ++ u8 0
  | .line i => u8 1 ++ u8 i
  | .commit => u8 2
  | .clear => u8 3
  | .fetch => u8 4

/-- The transfer part of a UNIT_STATUS reply (R65). -/
def TransferView.bytes (t : TransferView) : List Byte :=
  u8 t.kind.code ++ u8 t.slot ++ t.step.bytes ++ u8 t.tries

/-- A view and kind mask of the plan (R172). -/
def viewBytes (v : View) (m : BitVec 5) : List Byte :=
  u8 v.first ++ u8 v.dir.code ++ u8 v.len ++ u8 m.toNat

/-- A planned unit, as PLAN_UNIT gives it (R172). -/
def PlanUnit.bytes : PlanUnit → List Byte
  | .sign v m => u8 0 ++ viewBytes v m
  | .gate v m g t => u8 1 ++ viewBytes v m ++ u8 g.val ++ u8 t
  | .monitor => u8 2

/-- A plan item, as its PLAN request gives it (R176). The minimum pulse and the stuck limit of a detector,
which the plan always holds, go without the presence bytes of PLAN_DETECTOR: the model's choice (log
17). -/
def PlanItem.bytes : PlanItem → List Byte
  | .road n => u8 n
  | .unit u => u.bytes
  | .sec x =>
    u8 x.first ++ u8 x.last ++ listBytes (fun g => u8 g.val) x.gates ++ listBytes unitBytes x.approach
      ++ be16 x.lead ++ be16 x.wait ++ be16 x.sweepMin ++ be16 x.sweepOver
  | .detector d =>
    present (fun a => u8 a.1.val ++ u8 a.2.code) d.assign ++ be16 d.minPulse ++ u8 d.stuck
  | .path p =>
    listBytes u8 p.segs ++ present unitBytes p.monitor ++ p.thresholds.flatMap u8 ++ be16 p.window
      ++ be32 p.hold ++ u8 p.silent

/-- A plan index: a line and address, or a number (R176). -/
def PlanIndex.bytes : PlanIndex → List Byte
  | .unit u => unitBytes u
  | .number n => u8 n

/-! ### Bodies, in the order each rule lists its fields (R203) -/

/-- The best posting of a SCAN reply (R37). -/
def BestView.bytes (b : BestView) : List Byte :=
  handleBytes b.handle ++ u8 b.state.code ++ u8 b.kind.rank ++ u8 b.authority.code ++ u8 b.first
    ++ u8 b.last ++ u8 b.severity ++ [b.version]

/-- A SCAN reply body (R36). -/
def ScanView.bytes (v : ScanView) : List Byte :=
  present u8 v.found ++ u8 v.examined ++ present u8 v.next ++ mark v.atEnd
    ++ present BestView.bytes v.best ++ present be16 v.matching

/-- A DESCRIBE reply body (R41). -/
def DescribeView.bytes (v : DescribeView) : List Byte :=
  u8 v.part.code ++ be16 v.capacity ++ u8 v.reserve ++ be16 v.station ++ be16 v.auto ++ be16 v.field
    ++ be16 v.pending ++ be16 v.active ++ be16 v.retiring ++ be16 v.room ++ be16 v.linesUsed
    ++ be16 v.linesFree ++ be16 v.queued ++ u8 v.segments ++ u8 v.sections ++ u8 v.gates
    ++ u8 v.units ++ u8 v.paths ++ u8 v.detectors

/-- A UNIT_STATUS reply body (R65). The gate order and the slots stand in every body, absent as 00h and as
the count 00h for a kind that has none: the model's choice (log 17). -/
def UnitView.bytes (v : UnitView) : List Byte :=
  present (fun k => u8 (unitKindCode k)) v.kind ++ u8 v.state.code ++ present u8 v.misses
    ++ present reportBytes v.last ++ present TransferView.bytes v.transfer
    ++ present (fun o => u8 o.1.code ++ mark o.2) v.order ++ listBytes CopySlot.bytes v.slots

/-- A SECTION_STATUS reply body (R136). -/
def SectionView.bytes (v : SectionView) : List Byte :=
  u8 v.state.code ++ u8 v.standing.code ++ mark v.covered ++ mark v.atOnce ++ present be16 v.notice
    ++ present (fun r => u8 r.1 ++ u8 r.2) v.ready ++ present be16 v.sweepMin
    ++ present be16 v.sweepOver ++ present mark v.overdue ++ occBytes v.occupancy
    ++ listBytes (fun g => u8 g.1.val ++ u8 g.2.code) v.gates

/-- A GATE_STATUS reply body (R137). -/
def GateView.bytes (v : GateView) : List Byte :=
  u8 v.sec.val ++ unitBytes v.unit ++ u8 v.travel ++ u8 v.pos.code
    ++ present (fun p => u8 (gatePosCode p)) v.reported ++ present (fun k => u8 (keyCode k)) v.key
    ++ u8 v.standing.code ++ u8 v.phase.code ++ present u8 v.timer
    ++ present (fun l => handleBytes l.1 ++ u8 l.2.code) v.link

/-- A DETECTOR_STATUS reply body (R149). The assignment UNUSED is a presence byte 00h, an assigned one
01h with section and sense (log 17). -/
def DetectorView.bytes (v : DetectorView) : List Byte :=
  (PlanItem.detector v.plan).bytes ++ u8 v.state.code ++ present (fun l => u8 l.code) v.level
    ++ present be32 v.timer ++ present mark v.partialMark ++ be16 v.counted.toNat
    ++ be16 v.short.toNat ++ present occBytes v.occupancy

/-- A PATH_STATUS reply body (R165). The pin of the posting that the AUTO link names stands behind a
presence byte (log 17). -/
def PathView.bytes (v : PathView) : List Byte :=
  u8 v.watch.code ++ u8 v.level ++ present handleBytes v.danger ++ u8 v.threshold
    ++ present be16 v.timer ++ u8 v.count ++ present (fun b => [b]) v.baseline
    ++ present (fun m => unitBytes m.1 ++ u8 m.2.code) v.monitor
    ++ present (fun l => handleBytes l.1 ++ u8 l.2.1.code ++ present be32 l.2.2) v.link
    ++ present (fun a => u8 a.1.code ++ be32 a.2) v.last

/-- A BAD_PLAN body (R177). -/
def BadPlan.bytes (b : BadPlan) : List Byte :=
  u8 b.check ++ u8 b.cls.code ++ present PlanIndex.bytes b.index ++ present PlanIndex.bytes b.second

/-- The DONE body of COMMISSION (R178). -/
def CommissionView.bytes (v : CommissionView) : List Byte :=
  u8 v.reserve ++ u8 v.segments ++ u8 v.sections ++ u8 v.gates ++ u8 v.units ++ u8 v.paths
    ++ u8 v.detectors

/-- A reply body as bytes. -/
def ReplyBody.bytes : ReplyBody → List Byte
  | .empty => []
  | .posted h st v => handleBytes h ++ u8 st.code ++ [v]
  | .changed st v => u8 st.code ++ [v]
  | .retired st => u8 ((st.map PState.code).getD 0)
  | .amendedSlots n => u8 n
  | .pin t => be32 t
  | .found v c b a o out q =>
    v.bytes ++ u8 c ++ u8 b ++ u8 a ++ u8 o ++ mark out ++ mark q
  | .walked v next => v.bytes ++ present u8 next
  | .scanned v => v.bytes
  | .described v => v.bytes
  | .unit v => v.bytes
  | .sec v => v.bytes
  | .gate v => v.bytes
  | .detector v => v.bytes
  | .path v => v.bytes
  | .sectionState st => u8 st.code
  | .confirmed st n => u8 st.code ++ u8 n
  | .retried p ph => u8 p.code ++ u8 ph.code
  | .waited s => be16 s
  | .ahead n => be16 n
  | .attention f m => flagBytes f ++ u8 m.code
  | .enables f l => flagBytes f ++ mark l
  | .mode m => u8 m.code
  | .flags f => flagBytes f
  | .timeBefore t v => be32 t ++ mark v
  | .time t v c => be32 t ++ mark v ++ u8 c.code
  | .planItem item next => (item.map PlanItem.bytes).getD [] ++ present PlanIndex.bytes next
  | .badPlan b => b.bytes
  | .commissioned v => v.bytes
  | .blockedBySection i st => u8 0 ++ u8 i ++ u8 st.code
  | .blockedByQueue n => u8 1 ++ be16 n
  | .blockedByPin h t => u8 2 ++ handleBytes h ++ be32 t

/-- The frame of a reply: result code, body length, body, sum (12.1, R194). -/
def Reply.frame (r : Reply) : List Byte :=
  withSum (BitVec.ofNat 8 r.code.code :: be16 r.body.bytes.length ++ r.body.bytes)

end Sys2Proof.Machine
end

