-- ==== Sys2Proof/Machine/Frames.lean ====
section
/-! DEFINITION. The frames the controller sends on a field line for the exchange in flight (R43, R44,
chapter 12.2). -/

namespace Sys2Proof.Machine

/-- A field frame: address byte, type byte, body, sum (12.2). -/
def fieldFrame (a : Fin 12) (type : Nat) (body : List Byte) : List Byte :=
  withSum (u8 (a.val + 1) ++ u8 type ++ body)

/-- A TEXT frame: line index, character count, characters (12.2). -/
def textFrame (a : Fin 12) (i : Nat) (line : List Byte) : List Byte :=
  fieldFrame a 0x04 (u8 i ++ lineBytes line)

/-- The TEXT frames of a burst, index 0 first (R58). -/
def burstFrames (a : Fin 12) : Nat → List (List Byte) → List (List Byte)
  | _, [] => []
  | i, l :: ls => textFrame a i l :: burstFrames a (i + 1) ls

/-- The frames of a transfer's present step (R57 to R62). -/
def Transfer.frames (t : Transfer) : List (List Byte) :=
  let a := t.addr
  match t.step, t.kind with
  | .load, .load im => [fieldFrame a 0x03 im.short]
  | .burst, .load im => burstFrames a 0 im.text
  | .line i, .load im => [textFrame a i (im.text.getD i [])]
  | .commit, _ => [fieldFrame a 0x05 (u8 t.slot ++ mark t.overrule)]
  | .clear, _ => [fieldFrame a 0x06 (u8 t.slot ++ mark t.overrule)]
  | .fetch, _ => [fieldFrame a 0x08 (u8 t.slot)]
  | _, _ => []

/-- What a line has sent for its exchange in flight: nothing when none is. -/
def Line.sending (x : Line) : List (List Byte) :=
  match x.inFlight with
  | none => []
  | some ex =>
    match ex.sent with
    | .poll => [fieldFrame ex.addr 0x01 []]
    | .gateOrder d => [fieldFrame ex.addr 0x07 (u8 d.code)]
    | .work => (x.transfer.map Transfer.frames).getD []

end Sys2Proof.Machine
end

