-- ==== Sys2Proof/Machine/Port.lean ====
section
/-! DEFINITION. The Station Port: transactions, taking and answering a request, placing and reading a
reply, and how the other blocks' events reach the state (R192 to R195, R199, R202). -/

namespace Sys2Proof.Machine

/-- One step's answer. -/
abbrev Out := Host.Outcome State Fault Refusal

/-! ### Placing replies -/

/-- Place a reply: the port is UNREAD (R192), and the host interval timer restarts, since each reply
is placed as a request is taken or as a SETTLE's wait ends (R199). -/
def State.place (s : State) (rep : Reply) : State :=
  { s with port := { s.port with state := .unread, reply := some rep, timer := s.port.restarted,
                                 overtaken := false } }

/-- Place the reply of a SETTLE that no request ended: a transaction that began before it may be
running still (R192). -/
def State.overtake (s : State) (rep : Reply) : State :=
  let t := s.place rep
  { t with port := { t.port with overtaken := true } }

/-- A SETTLE waits: the port is BUSY and the host interval timer stops (R192, R199). -/
def State.wait (s : State) : State := { s with port := { s.port with state := .busy, timer := none } }

/-- A refusal with no body. -/
def refusal (c : Result) : Reply := { code := c, body := .empty }

/-- A DONE reply. -/
def done (b : ReplyBody) : Reply := { code := .done, body := b }

/-- The road blocks after an event. When the event took the settle marker to the head, the SETTLE
ends with SETTLED and the whole seconds it waited (R93, R195). -/
def State.hand (s : State) (r : Road) : State :=
  match s.road.settle, r.settle with
  | some st, none =>
    State.overtake { s with road := r } { code := .settled, body := .waited (wholeSeconds st.ms) }
  | _, _ => { s with road := r }

/-- An event of the road blocks. While the blocks are stopped nothing reaches them (R187, R190). -/
def onRoad (f : Env → Road → Road) (s : State) : Out :=
  .next (if s.cru.working then s.hand (f s.env s.road) else s)

/-! ### Request transactions (R192, R193) -/

/-- A transaction that ends now began while the port was BUSY, and the SETTLE has ended since: no
other state can have changed under it (R192). -/
def Port.missed (p : Port) (begunBusy : Bool) : Bool :=
  begunBusy && p.overtaken && p.state == .unread

/-- The port state in the event a transaction began, which its status byte reports (R192). -/
def Port.stateShown (p : Port) (begunBusy : Bool) : PortState :=
  if p.missed begunBusy then .busy else p.state

/-- The bytes shifted out while the host shifts in `n` bytes and no reply is shifted out (R202). -/
def State.idleBytes (s : State) (n : Nat) (begunBusy : Bool) : List Byte :=
  if s.cru.working then (s.port.stateShown begunBusy).status :: List.replicate (n - 1) 0x00
  else List.replicate n 0xFF

/-- A transaction has ended: the bytes it shifted out, and none that began before it runs. -/
def State.shiftOut (s : State) (out : List Byte) : State :=
  { s with port := { s.port with out := out, overtaken := false } }

/-- A request frame has been received: its bytes pass over SPDI while fillers pass over SPDO. The
buffer keeps at most the first 300 body bytes (R203). -/
def State.receive (s : State) (code : Byte) (body : List Byte) : State :=
  { s with port := { s.port with
      buffer := code :: be16 body.length ++ body.take Config.storedBody } }

/-- What a taken request does: the state it leaves, and its reply, or none for a SETTLE that waits. -/
abbrev Handler := State → State × Option Reply

/-- Finish a taken request: place its reply, or wait (R193). -/
def State.answer (x : State × Option Reply) : State :=
  match x.2 with
  | some rep => x.1.place rep
  | none => x.1.wait

/-- A request transaction with a good frame: taken on a READY port, discarded on a BUSY or UNREAD one,
and unseen by a stopped one (R192, R193, R201). -/
def request (code : Byte) (sent : Shifted) (run : Handler) (s : State) : Out :=
  let s' := s.shiftOut (s.idleBytes (sent.bytes.length + 4) sent.begunBusy)
  .next (if s.cru.working = true ∧ s.port.state = .ready then
    State.answer (run (s'.receive code sent.bytes)) else s')

/-! ### Shapes of requests (R169, R203) -/

/-- Read the body, refusing a fault of form (R203), and go on. -/
def withBody {α : Type} (p : Parse α) (body : List Byte) (f : α → State → State × Option Reply) :
    Handler := fun s =>
  match readBody p body with
  | some x => f x s
  | none => (s, some (refusal .badRequest))

/-- The part-state check: BAD_STATE before all else (R169). -/
def inPart (part : PartState) (f : Handler) : Handler := fun s =>
  if s.part = part then f s else (s, some (refusal .badState))

/-- A request that reads and changes nothing. -/
def reads {α : Type} (f : State → α → Reply) (x : α) : Handler := fun s => (s, some (f s x))

/-- A request that acts on the road blocks. -/
def acts {α : Type} (f : Env → α → Road → Road × Reply) (x : α) : Handler := fun s =>
  let y := f s.env x s.road
  ({ s with road := y.1 }, some y.2)

/-! ### Reply reads (R194, R202) -/

/-- The bytes after the sum byte of a reply: free values (log 6). -/
def afterBytes (fresh n : Nat) : List Byte := (List.range n).map fun i => Config.afterSum (fresh + i)

/-- A reply read of `n` bytes on an UNREAD port: status, frame, and what follows the sum byte. -/
def replyBytes (rep : Reply) (fresh n : Nat) : List Byte :=
  (PortState.unread.status :: rep.frame ++ afterBytes fresh (n - 1 - rep.frame.length)).take n

/-- The reply has been read: the buffer empties, the port is READY, and the host interval timer
restarts (R194, R199). -/
def Port.emptied (p : Port) : Port := { p with state := .ready, reply := none, timer := p.restarted }

/-- A reply read of `n` bytes, judged by the port state it began in (R192, R194). -/
def State.readReply (s : State) (n : Nat) (begunBusy : Bool) : State :=
  match s.cru.working, s.port.stateShown begunBusy, s.port.reply with
  | true, .unread, some rep =>
    let s' := s.shiftOut (replyBytes rep s.road.fresh n)
    if n ≤ rep.frame.length then s'
    else { s' with port := s'.port.emptied
                   road := { s.road with fresh := s.road.fresh + (n - 1 - rep.frame.length) } }
  | _, _, _ => s.shiftOut (s.idleBytes n begunBusy)

end Sys2Proof.Machine
end

