-- ==== Sys2Proof/Machine/PostingRequests.lean ====
section
/-! DEFINITION. POST, CHANGE, RETIRE and LOOKUP (R21 to R27). -/

namespace Sys2Proof.Machine

/-! ### Values of a posting's fields (R3, R22) -/

/-- A detail in the range its kind takes, and absent for a kind that takes none (R3, R22). -/
def detailFits : PKind → Option Nat → Bool
  | .closure, none | .notice, none => true
  | .danger, some d => d ≤ 4
  | .restriction, some d => d ≤ 3
  | .limit, some d => 1 ≤ d && d ≤ 12
  | _, _ => false

/-- An urgency for a CLOSURE and for no other kind (R3). -/
def urgencyFits (k : PKind) (u : Option Urgency) : Bool := u.isSome == (k == .closure)

/-- At most 4 good lines, and at least one for a NOTICE (R22). -/
def textFits (k : PKind) (t : List (List Byte)) : Bool :=
  goodText t && !(k == .notice && t.isEmpty)

/-- A span that lies on the road (R22). -/
def spanFits (e : Env) (first last : Nat) : Bool := first ≤ last && decide (last < e.roadLen)

/-- A planned path (R22). -/
def plannedPath (e : Env) (p : Nat) : Option PlanPath := (indexBelow 24 p).bind e.plan.path

/-- The carried fields of a posting (1.1). -/
structure Carried where
  kind     : PKind
  first    : Nat
  last     : Nat
  severity : Nat
  detail   : Option Nat
  urgency  : Option Urgency
  text     : List (List Byte)
  deriving DecidableEq, Repr

/-- A posting's carried fields (1.1). -/
def Posting.carried (p : Posting) : Carried :=
  { kind := p.kind, first := p.first, last := p.last, severity := p.severity, detail := p.detail,
    urgency := p.urgency, text := p.text }

/-! ### POST (R21, R22) -/

/-- The span and path a POST body gives, when they suit its kind (R3, R22). -/
def PostBody.span? (e : Env) (b : PostBody) : Option (Nat × Nat × Option Nat) :=
  match b.kind, b.place with
  | .danger, .path p => (plannedPath e p).map fun x => (x.first, x.last, some p)
  | .danger, .span _ _ => none
  | _, .path _ => none
  | _, .span f l => if spanFits e f l then some (f, l, none) else none

/-- A POST's start lies after pass time (R9). -/
def PostBody.later (e : Env) (b : PostBody) : Bool := b.start.any (e.now < ·)

/-- The effective start of R22. -/
def PostBody.effectiveStart (e : Env) (b : PostBody) : Nat :=
  if b.later e then b.start.getD e.now else e.now

/-- The posting a POST body asks for; none for a body fault of R22. -/
def PostBody.posting? (e : Env) (b : PostBody) : Option Posting :=
  match b.span? e with
  | some (first, last, path) =>
    if b.severity ≤ 7 ∧ detailFits b.kind b.detail = true ∧ urgencyFits b.kind b.urgency = true
        ∧ textFits b.kind b.text = true ∧ b.expiry.all (b.effectiveStart e < ·) = true then
      some { state := if b.later e then .pending else .active, kind := b.kind, authority := .station,
             first := first, last := last, path := path, severity := b.severity, detail := b.detail,
             urgency := b.urgency, text := b.text, start := b.start, expiry := b.expiry,
             pin := b.pin, cause := none, source := none }
    else none
  | none => none

/-- A path already has a PENDING or ACTIVE DANGER posting (R21). -/
def Road.hasDanger (r : Road) (path : Option Nat) : Bool :=
  r.postings.any fun x => x.2.kind == .danger && x.2.path == path && x.2.state != .retiring

/-- The FULL test (R8). -/
def Road.full (r : Road) : Bool := r.freeSlots ≤ r.unusedReserve

/-- A posting that passed its checks is made in a FREE slot (R1, R9, R21). -/
def Road.post (e : Env) (i : Fin 256) (p : Posting) (r : Road) : Road :=
  let r := r.occupy i p
  if p.state = .active then
    ((r.append e (.posting (r.handleAt i))).notices e p).readyTests e
  else r

/-- POST, its body read (R21). -/
def postRequest (e : Env) (b : PostBody) (r : Road) : Road × Reply :=
  match b.posting? e with
  | none => (r, refusal .badRequest)
  | some p =>
    if p.kind = .danger ∧ r.hasDanger p.path then (r, refusal .duplicate)
    else if r.full then (r, refusal .full)
    else if r.freeLines < p.text.length then (r, refusal .textFull)
    else
      match r.lowestFree with
      | none => (r, refusal .full)
      | some i =>
        (r.post e i p,
          done (.posted (r.occupy i p |>.handleAt i) p.state ((r.slot i).version + 1)))

/-- POST (R21). -/
def execPost (sent : Shifted) (s : State) : Out :=
  request 0x10 sent (inPart .running (withBody postBody sent.bytes (acts postRequest))) s

/-! ### CHANGE (R24 to R26) -/

/-- A handle that names a posting, with it; none is STALE (R2). -/
def Road.find (r : Road) (h : Option Handle) : Option (Handle × Posting) :=
  h.bind fun h => (r.named h).map fun p => (h, p)

/-- A CHANGE gives a carried field (R26). -/
def ChangeBody.touches (b : ChangeBody) : Bool :=
  b.kind.isSome || b.span.isSome || b.severity.isSome || b.detail.isSome || b.urgency.isSome
    || b.text.isSome

/-- A CHANGE gives a field or asks for the expiry removal (R25). -/
def ChangeBody.asks (b : ChangeBody) : Bool :=
  b.touches || b.start.isSome || b.expiry.isSome || b.pin.isSome || b.removeExpiry

/-- The kind changes (R25). -/
def ChangeBody.kindChanges (b : ChangeBody) (p : Posting) : Bool := b.kind.any (· != p.kind)

/-- The posting as it would stand after the change, its state and start aside (R25, R26): on a change
of kind the old detail and urgency are not carried over. -/
def ChangeBody.applied (b : ChangeBody) (p : Posting) : Posting :=
  { p with
    kind := b.kind.getD p.kind
    first := (b.span.map (·.1)).getD p.first
    last := (b.span.map (·.2)).getD p.last
    severity := b.severity.getD p.severity
    detail := b.detail.getD (if b.kindChanges p then none else p.detail)
    urgency := b.urgency.getD (if b.kindChanges p then none else p.urgency)
    text := b.text.getD p.text
    start := b.start.orElse fun _ => p.start
    expiry := if b.removeExpiry then none else b.expiry.orElse fun _ => p.expiry
    pin := b.pin.orElse fun _ => p.pin }

/-- The times of a CHANGE are good (R25). -/
def ChangeBody.timesFit (e : Env) (b : ChangeBody) (p : Posting) : Bool :=
  let start := b.start.orElse fun _ => p.start
  b.pin.all (p.pin.getD 0 ≤ ·) &&
    b.expiry.all (fun x => decide (e.now < x) && !(p.state == .pending && start.any (x ≤ ·))) &&
    !(b.expiry.isNone && !b.removeExpiry && b.start.any fun t => p.expiry.any (· ≤ t))

/-- A CHANGE body has none of the faults of R25 for a posting. -/
def ChangeBody.fits (e : Env) (b : ChangeBody) (p : Posting) : Bool :=
  let q := b.applied p
  b.asks && !(b.expiry.isSome && b.removeExpiry) && !b.removePin
    && b.kind.all (fun k => k != .danger && p.kind != .danger)
    && b.span.all (fun x => p.kind != .danger && spanFits e x.1 x.2)
    && b.severity.all (· ≤ 7) && b.detail.all (·.isSome) && b.urgency.all (·.isSome)
    && detailFits q.kind q.detail && urgencyFits q.kind q.urgency && textFits q.kind q.text
    && b.timesFit e p

/-- The notices of R16 for an ACTIVE posting that was `p` and is now `q`. -/
def Road.changeNotices (e : Env) (p q : Posting) (r : Road) : Road :=
  let wasClosure := p.kind = .closure
  let isClosure := q.kind = .closure
  let r :=
    if (wasClosure ≠ isClosure)
        ∨ (isClosure ∧ (p.first ≠ q.first ∨ p.last ≠ q.last ∨ p.urgency ≠ q.urgency)) then
      r.coverageNoticeTo e fun x =>
        meets p.first p.last x.first x.last || meets q.first q.last x.first x.last
    else r
  if q.kind = .danger ∧ p.detail ≠ q.detail then r.notices e q else r

/-- An accepted CHANGE (R26). -/
def Road.change (e : Env) (b : ChangeBody) (h : Handle) (p : Posting) (r : Road) : Road :=
  let q := b.applied p
  let rises := q.carried ≠ p.carried
  let starts := p.state = .pending ∧ b.start.any (· ≤ e.now) = true
  let q := if starts then { q with state := .active } else q
  let r := r.swapText h.slot { q with text := p.text } q.text
  let r := if rises then r.bumpVersion h.slot else r
  if p.state = .active then
    if rises then ((r.markAndQueue e h b.overrule).changeNotices e p q).readyTests e else r
  else if starts then ((r.append e (.posting h)).notices e q).readyTests e
  else r

/-- The state of a posting after an accepted CHANGE (R26). -/
def ChangeBody.stateAfter (e : Env) (b : ChangeBody) (p : Posting) : PState :=
  if p.state = .pending ∧ b.start.any (· ≤ e.now) = true then .active else p.state

/-- The version of a posting after an accepted CHANGE (R4, R26). -/
def ChangeBody.versionAfter (b : ChangeBody) (p : Posting) (v : Byte) : Byte :=
  if (b.applied p).carried ≠ p.carried then v + 1 else v

/-- CHANGE, its body read (R24). -/
def changeRequest (e : Env) (b : ChangeBody) (r : Road) : Road × Reply :=
  match r.find b.handle with
  | none => (r, refusal .stale)
  | some (h, p) =>
    if p.authority ≠ .station then (r, refusal .authority)
    else if p.state = .retiring then (r, refusal .retired)
    else if !b.fits e p then (r, refusal .badRequest)
    else if b.start.isSome ∧ p.state = .active then (r, refusal .badState)
    else if b.touches ∧ r.amendedCopies h ≠ 0 ∧ b.overrule = false then
      (r, { code := .amended, body := .amendedSlots (r.amendedCopies h) })
    else if b.text.any (fun t => !r.fits p t) then (r, refusal .textFull)
    else (r.change e b h p, done (.changed (b.stateAfter e p) (b.versionAfter p (r.version h))))

/-- CHANGE (R24). -/
def execChange (sent : Shifted) (s : State) : Out :=
  request 0x11 sent (inPart .running (withBody changeBody sent.bytes (acts changeRequest))) s

/-! ### RETIRE (R27) -/

/-- An accepted RETIRE of an ACTIVE posting (R13, R16, R27). -/
def Road.retireByHost (e : Env) (overrule : Bool) (h : Handle) (p : Posting) (r : Road) : Road :=
  ((r.retire e h.slot .host overrule).notices e p).readyTests e

/-- RETIRE, its body read (R27). -/
def retireRequest (e : Env) (x : Option Handle × Bool) (r : Road) : Road × Reply :=
  match r.find x.1 with
  | none => (r, refusal .stale)
  | some (h, p) =>
    if p.authority = .field then (r, refusal .authority)
    else
      match p.state with
      | .retiring => (r, refusal .retired)
      | .pending => (r.free h.slot, done (.retired none))
      | .active =>
        match p.pin.filter (e.now < ·) with
        | some t => (r, { code := .pinned, body := .pin t })
        | none =>
          if r.amendedCopies h ≠ 0 ∧ x.2 = false then (r, refusal .amended)
          else (r.retireByHost e x.2 h p, done (.retired (some .retiring)))

/-- RETIRE (R27). -/
def execRetire (sent : Shifted) (s : State) : Out :=
  request 0x12 sent (inPart .running (withBody retireBody sent.bytes (acts retireRequest))) s

/-! ### LOOKUP (R23) -/

/-- A posting as LOOKUP and WALK carry it. -/
def Road.view (r : Road) (i : Fin 256) (p : Posting) : PostingView :=
  { handle := r.handleAt i, version := (r.slot i).version, posting := p }

/-- A record is CURRENT for a handle. -/
def CopySlot.currentFor (h : Handle) : CopySlot → Bool
  | .current h' _ => h' == h
  | _ => false
/-- A record is BEHIND for a handle. -/
def CopySlot.behindFor (h : Handle) : CopySlot → Bool
  | .behind h' _ => h' == h
  | _ => false
/-- A record is OVERRULED for a handle. -/
def CopySlot.overruledFor (h : Handle) (c : CopySlot) : Bool :=
  c.isOverruled && c.handle? == some h

/-- LOOKUP's reply (R23). -/
def lookupReply (s : State) (h : Option Handle) : Reply :=
  match s.road.find h with
  | none => refusal .stale
  | some (h, p) =>
    let r := s.road
    done (.found (r.view h.slot p) (r.countCopies (CopySlot.currentFor h))
      (r.countCopies (CopySlot.behindFor h)) (r.amendedCopies h)
      (r.countCopies (CopySlot.overruledFor h)) (r.amendedCopies h != 0) (r.queued h))

/-- LOOKUP (R23). -/
def execLookup (sent : Shifted) (s : State) : Out :=
  request 0x13 sent (inPart .running (withBody handleField sent.bytes (reads lookupReply))) s

end Sys2Proof.Machine
end

