-- ==== Sys2Proof/Machine/ReadingRequests.lean ====
section
/-! DEFINITION. The requests that read: SCAN, WALK, DESCRIBE and the five status requests (R32 to R41,
R65, R136, R137, R149, R165). They change nothing but the port. -/

namespace Sys2Proof.Machine

/-! ### SCAN (R32 to R37) -/

/-- A severity passes a test against a value (R32). -/
def SevTest.passes (t : SevTest) (v sev : Nat) : Bool :=
  match t with
  | .any => true
  | .eq => sev == v
  | .ne => sev != v
  | .ge => v ≤ sev
  | .gt => v < sev
  | .le => sev ≤ v
  | .lt => sev < v

/-- A posting matches a SCAN filter (R32). -/
def ScanBody.matches (b : ScanBody) (p : Posting) : Bool :=
  inMask b.mask p.kind && (p.state == .active || (b.pending && p.state == .pending))
    && b.test.passes b.value p.severity

/-- A posting covers a segment (R32). -/
def Posting.covers (p : Posting) (seg : Nat) : Bool := p.first ≤ seg && seg ≤ p.last

/-- The matching postings that cover a segment, in slot order (R37). -/
def Road.candidates (r : Road) (b : ScanBody) (seg : Nat) : List (Fin 256 × Posting) :=
  r.postings.filter fun x => b.matches x.2 && x.2.covers seg

/-- The segment one step on; none at the road end (R35). -/
def stepOn (road : Nat) (dir : Dir) (seg : Nat) : Option Nat :=
  match dir with
  | .south => if seg + 1 < road then some (seg + 1) else none
  | .north => if seg = 0 then none else some (seg - 1)

/-- Where a scan stops: the stop point, the segments examined, and whether it was found. -/
structure ScanStop where
  seg      : Nat
  examined : Nat
  found    : Bool
  deriving DecidableEq, Repr

/-- Examine segments from `seg`, `left` more after it at most, `seen` before it (R35). -/
def scanFrom (hit : Nat → Bool) (road : Nat) (dir : Dir) : Nat → Nat → Nat → ScanStop
  | 0, seg, seen => { seg := seg, examined := seen + 1, found := hit seg }
  | left + 1, seg, seen =>
    if hit seg then { seg := seg, examined := seen + 1, found := true }
    else
      match stepOn road dir seg with
      | some next => scanFrom hit road dir left next (seen + 1)
      | none => { seg := seg, examined := seen + 1, found := false }

/-- Where a SCAN stops (R35). -/
def ScanBody.stop (b : ScanBody) (road : Nat) (r : Road) : ScanStop :=
  scanFrom (fun seg => b.clear == (r.candidates b seg).isEmpty) road b.dir (b.count - 1) b.start 0

/-- A posting as the SCAN reply names it (R37). -/
def Road.bestView (r : Road) (x : Fin 256 × Posting) : BestView :=
  { handle := r.handleAt x.1, state := x.2.state, kind := x.2.kind, authority := x.2.authority,
    first := x.2.first, last := x.2.last, severity := x.2.severity, version := (r.slot x.1).version }

/-- SCAN's reply (R34 to R37). -/
def scanReply (s : State) (b : ScanBody) : Reply :=
  let road := s.env.roadLen
  if b.start < road then
    let stop := b.stop road s.road
    let next := stepOn road b.dir stop.seg
    let cands := s.road.candidates b stop.seg
    let named := stop.found && !b.clear
    { code := if stop.found then .done else .none,
      body := .scanned
        { found := if stop.found then some stop.seg else none, examined := stop.examined,
          next := next, atEnd := next.isNone,
          best := if named then (ranked b.start b.dir cands).head?.map s.road.bestView else none,
          matching := if named then some cands.length else none } }
  else refusal .badRequest

/-- SCAN (R34). -/
def execScan (sent : Shifted) (s : State) : Out :=
  request 0x20 sent (inPart .running (withBody scanBody sent.bytes (reads scanReply))) s

/-! ### WALK (R39, R40) -/

/-- The place of a state in the WALK list PENDING, ACTIVE, RETIRING (R39). -/
def PState.place : PState → Nat
  | .pending => 0
  | .active => 1
  | .retiring => 2

/-- A posting passes a WALK filter (R39). -/
def WalkBody.passes (b : WalkBody) (p : Posting) : Bool :=
  inMask b.kinds p.kind && b.states.testBit p.state.place && b.authorities.testBit p.authority.code

/-- The first slot at or after the given one that holds a passing posting (R39). -/
def Road.walk (r : Road) (b : WalkBody) : Option (Fin 256 × Posting) :=
  r.postings.find? fun x => decide (b.slot ≤ x.1.val) && b.passes x.2

/-- WALK's reply (R40). -/
def walkReply (s : State) (b : WalkBody) : Reply :=
  match s.road.walk b with
  | some (i, p) =>
    done (.walked (s.road.view i p) (if i.val = 255 then none else some (i.val + 1)))
  | none => refusal .none

/-- WALK (R39). -/
def execWalk (sent : Shifted) (s : State) : Out :=
  request 0x21 sent (inPart .running (withBody walkBody sent.bytes (reads walkReply))) s

/-! ### DESCRIBE (R41) -/

/-- The sizes of the table, pool, queue and plan (R41). -/
def State.describe (s : State) : DescribeView :=
  let r := s.road
  let station := r.countPostings (·.authority == .station)
  { part := s.part, capacity := Config.capacity, reserve := r.reserve, station := station,
    auto := r.countPostings (·.authority == .auto), field := r.countPostings (·.authority == .field),
    pending := r.countPostings (·.state == .pending), active := r.countPostings (·.state == .active),
    retiring := r.countPostings (·.state == .retiring),
    room := Config.capacity - r.reserve - station, linesUsed := Config.poolLines - r.freeLines,
    linesFree := r.freeLines, queued := r.queue.length, segments := s.plan.road.getD 0,
    sections := s.plan.sectionCount, gates := s.plan.gateCount, units := s.plan.unitCount,
    paths := s.plan.pathCount, detectors := s.plan.detectorCount }

/-- DESCRIBE's reply (R41). -/
def describeReply (s : State) (_ : Unit) : Reply := done (.described s.describe)

/-- DESCRIBE (R41). -/
def execDescribe (sent : Shifted) (s : State) : Out :=
  request 0x22 sent (withBody noBody sent.bytes (reads describeReply)) s

/-! ### UNIT_STATUS (R65) -/

/-- The transfer in progress on a line, when it is for a unit (R65). -/
def Road.transferOf (r : Road) (u : UnitId) : Option TransferView :=
  ((r.line u.line).transfer.filter (·.addr == u.addr)).map fun t =>
    { kind := t.kind, slot := t.slot, step := t.step, tries := t.tries }

/-- A unit's entry in the gate order list: its direction, and whether it is in flight (R65). -/
def Road.orderOf (r : Road) (u : UnitId) : Option (Order × Bool) :=
  ((r.line u.line).orders.find? (·.addr == u.addr)).map fun o =>
    (o.dir, (r.line u.line).orderInFlight u.addr)

/-- UNIT_STATUS's reply (R65). -/
def unitReply (s : State) (u : UnitId) : Reply :=
  let k := s.road.link u
  done (.unit (match k.kind with
    | none => { kind := none, state := .unplanned, misses := none, last := none, transfer := none,
                order := none, slots := [] }
    | some kind => { kind := some kind, state := k.state, misses := some k.misses, last := k.last,
                     transfer := s.road.transferOf u, order := s.road.orderOf u,
                     slots := s.road.dirOf u }))

/-- UNIT_STATUS (R65). -/
def execUnitStatus (sent : Shifted) (s : State) : Out :=
  request 0x23 sent (inPart .running (withBody unitIn sent.bytes (reads unitReply))) s

/-! ### SECTION_STATUS and GATE_STATUS (R136, R137) -/

/-- A section's standing order, which its entry gates hold (R114). -/
def Road.standingOf (e : Env) (r : Road) (i : Fin 8) : Order :=
  (((sectionGates e i).head?.bind r.gate).map (·.standing)).getD .toOpen

/-- SECTION_STATUS's reply (R136). -/
def sectionReply (s : State) (i : Fin 8) : Reply :=
  let r := s.road
  match s.plan.sec i, r.sec i with
  | some x, some y =>
    done (.sec
      { state := y.state, standing := r.standingOf s.env i, covered := r.covered s.env i,
        atOnce := r.coveredAtOnce s.env i, notice := y.notice.map wholeSeconds,
        ready := if y.state = .notice then
            some (x.approach.length, (x.approach.filter (r.unitReady x)).length) else none,
        sweepMin := y.sweepMin.map wholeSeconds, sweepOver := y.sweepOver.map wholeSeconds,
        overdue := if y.state = .sweep then some y.overdue else none,
        occupancy := (r.occOf i).getD .unknown,
        gates := x.gates.filterMap fun g => (r.gate g).map fun z => (g, z.pos) })
  | _, _ => refusal .badRequest

/-- SECTION_STATUS (R136). -/
def execSectionStatus (sent : Shifted) (s : State) : Out :=
  request 0x24 sent (inPart .running (withBody (index 8) sent.bytes (reads sectionReply))) s

/-- GATE_STATUS's reply (R137). -/
def gateReply (s : State) (g : Fin 16) : Reply :=
  match s.road.gate g with
  | some x =>
    done (.gate
      { sec := x.sec, unit := x.unit, travel := x.travel, pos := x.pos, reported := x.reported,
        key := x.key, standing := x.standing, phase := x.phase, timer := x.timer.map wholeSeconds,
        link := x.link.bind fun h => (s.road.namedState h).map fun st => (h, st) })
  | none => refusal .badRequest

/-- GATE_STATUS (R137). -/
def execGateStatus (sent : Shifted) (s : State) : Out :=
  request 0x25 sent (inPart .running (withBody (index 16) sent.bytes (reads gateReply))) s

/-! ### DETECTOR_STATUS (R149) -/

/-- DETECTOR_STATUS's reply (R149). -/
def detectorReply (s : State) (i : Fin 16) : Reply :=
  let x := s.road.input i
  let d := s.plan.detector i
  done (.detector
    { plan := d, state := x.state, level := x.level, timer := x.timer,
      partialMark := if x.state = .unused then none else some x.partialMark,
      counted := x.counted, short := x.short,
      occupancy := d.assign.bind fun a => s.road.occOf a.1 })

/-- DETECTOR_STATUS (R149). -/
def execDetectorStatus (sent : Shifted) (s : State) : Out :=
  request 0x26 sent (inPart .running (withBody (index 16) sent.bytes (reads detectorReply))) s

/-! ### PATH_STATUS (R165) -/

/-- The path's PENDING or ACTIVE DANGER posting (R165). -/
def Road.dangerOf (r : Road) (p : Fin 24) : Option Handle :=
  (r.postings.find? fun x =>
    x.2.kind == .danger && x.2.path == some p.val && x.2.state != .retiring).map
      fun x => r.handleAt x.1

/-- PATH_STATUS's reply (R165). -/
def pathReply (s : State) (p : Fin 24) : Reply :=
  let r := s.road
  match s.plan.path p, r.path p with
  | some pl, some x =>
    done (.path
      { watch := x.watch, level := x.level, danger := r.dangerOf p,
        threshold := pl.threshold x.level, timer := x.timer.map wholeSeconds, count := x.count,
        baseline := x.baseline, monitor := pl.monitor.map fun u => (u, (r.link u).state),
        link := x.link.bind fun h => (r.named h).map fun q => (h, q.state, q.pin), last := x.last })
  | _, _ => refusal .badRequest

/-- PATH_STATUS (R165). -/
def execPathStatus (sent : Shifted) (s : State) : Out :=
  request 0x27 sent (inPart .running (withBody (index 24) sent.bytes (reads pathReply))) s

end Sys2Proof.Machine
end

