-- ==== Sys2Proof/Machine/ActionRequests.lean ====
section
/-! DEFINITION. Section actions, SETTLE and ABORT, attention and supervision, the clock, and the port
transactions that are no named request (R92 to R96, R121, R124, R132, R148, R184, R185, R192 to
R200). -/

namespace Sys2Proof.Machine

/-! ### Section actions (R121, R124, R132, R148) -/

/-- The state of a section after an event; OPEN where there is no record. -/
def Road.stateOf (r : Road) (i : Fin 8) : SecState := (r.secState i).getD .isOpen

/-- A CLEARABLE section enters OPENING, its gates are ordered open in the order of the plan's entry gate
list (log 33), and they are tested (R124). -/
def Road.release (e : Env) (i : Fin 8) (r : Road) : Road :=
  Road.gateTest e i ((sectionGates e i).foldl (Road.setStanding .toOpen) (r.enter i .opening))

/-- RELEASE_SECTION, its body read (R124). -/
def releaseRequest (e : Env) (i : Fin 8) (r : Road) : Road × Reply :=
  match r.secState i with
  | none => (r, refusal .badRequest)
  | some .clearable =>
    let r' := r.release e i
    (r', done (.sectionState (r'.stateOf i)))
  | some _ => (r, refusal (if r.covered e i then .notClear else .badState))

/-- RELEASE_SECTION (R124). -/
def execReleaseSection (sent : Shifted) (s : State) : Out :=
  request 0x30 sent (inPart .running (withBody (index 8) sent.bytes (acts releaseRequest))) s

/-- FORCE_SWEEP, its body read (R121). -/
def forceRequest (e : Env) (i : Fin 8) (r : Road) : Road × Reply :=
  match r.secState i with
  | none => (r, refusal .badRequest)
  | some .shutting =>
    let r' := r.enterSweep e i
    (r', done (.sectionState (r'.stateOf i)))
  | some _ => (r, refusal .badState)

/-- FORCE_SWEEP (R121). -/
def execForceSweep (sent : Shifted) (s : State) : Out :=
  request 0x31 sent (inPart .running (withBody (index 8) sent.bytes (acts forceRequest))) s

/-- Inputs assigned to a section that are STUCK (R148). -/
def Road.stuckInputs (e : Env) (r : Road) (i : Fin 8) : Nat :=
  (allInputs.filter fun n => (e.plan.detector n).assign.any (·.1 == i) &&
    (r.input n).state == .stuck).length

/-- CONFIRM_CLEAR, its body read (R148). -/
def confirmRequest (e : Env) (i : Fin 8) (r : Road) : Road × Reply :=
  match r.secState i with
  | none => (r, refusal .badRequest)
  | some .sweep =>
    let r' := r.changeOcc e i (.known 0)
    (r', done (.confirmed (r'.stateOf i) (r'.stuckInputs e i)))
  | some _ => (r, refusal .badState)

/-- CONFIRM_CLEAR (R148). -/
def execConfirmClear (sent : Shifted) (s : State) : Out :=
  request 0x32 sent (inPart .running (withBody (index 8) sent.bytes (acts confirmRequest))) s

/-- A gate's retry: its position becomes the reported one, which sets GATE_FAULT when a jammed gate's
is FAULT (R127), its order is made, and the section is tested when the position changed; the retry is
marked until the unit's next report (R132, log 36). -/
def Road.retry (e : Env) (g : Fin 16) (x : GateRec) (r : Road) : Road :=
  let r' := ((r.setGate g { x with pos := x.posFromReport, retried := true }).flagFault
    (x.pos == .fault) x.posFromReport).makeOrder g
  if x.posFromReport = x.pos then r' else r'.gateTest e x.sec

/-- GATE_RETRY, its body read (R132). -/
def retryRequest (e : Env) (g : Fin 16) (r : Road) : Road × Reply :=
  match r.gate g with
  | none => (r, refusal .badRequest)
  | some x =>
    if (x.pos = .jammed ∨ x.pos = .fault) ∧ x.key = some .remote then
      let r' := r.retry e g x
      (r', done (match r'.gate g with
        | some y => .retried y.pos y.phase
        | none => .empty))
    else (r, refusal .badState)

/-- GATE_RETRY (R132). -/
def execGateRetry (sent : Shifted) (s : State) : Out :=
  request 0x33 sent (inPart .running (withBody (index 16) sent.bytes (acts retryRequest))) s

/-! ### SETTLE and ABORT (R92 to R96, R195) -/

/-- SETTLE, its body read: the marker is appended; at the head of an empty queue it ends at once
(R92, R93). -/
def settleRequest (timeout : Nat) (s : State) : State × Option Reply :=
  let r := s.road.appendMarker s.env timeout
  ({ s with road := r },
    match r.settle with
    | some _ => none
    | none => some { code := .settled, body := .waited 0 })

/-- SETTLE (R92). -/
def execSettle (sent : Shifted) (s : State) : Out :=
  request 0x38 sent (inPart .running (withBody (within2 1 600) sent.bytes settleRequest)) s

/-- The reply of a SETTLE that ends early names the entries ahead of its marker (R94 to R96). -/
def Road.earlyReply (r : Road) (code : Result) : Reply :=
  { code := code, body := .ahead (aheadOfMarker r.queue).length }

/-- ABORT ends a waiting SETTLE: the marker leaves the queue (R95, R96). -/
def State.abortSettle (s : State) : State :=
  State.place { s with road := s.road.dropMarker s.env } (s.road.earlyReply .aborted)

/-- A waiting SETTLE ends at its timeout: the marker leaves the queue (R94, R96). -/
def State.timeOutSettle (s : State) : State :=
  State.overtake { s with road := s.road.dropMarker s.env } (s.road.earlyReply .timeout)

/-- ABORT, its body read, on a READY port: no SETTLE waits (R95). -/
def abortReply (_ : State) (_ : Unit) : Reply := refusal .badState

/-- ABORT (R95, R195): on a BUSY port every ABORT with a good frame is taken and ends the SETTLE,
whatever body it carries (log 20). -/
def execAbort (sent : Shifted) (s : State) : Out :=
  if s.cru.working = true ∧ s.port.state = .busy then
    .next (State.abortSettle
      ((s.shiftOut (s.idleBytes (sent.bytes.length + 4) sent.begunBusy)).receive 0x39 sent.bytes))
  else request 0x39 sent (inPart .running (withBody noBody sent.bytes (reads abortReply))) s

/-! ### Attention and supervision (R196 to R200) -/

/-- TAKE_ATTENTION, its body read: every flag is reported and cleared (R198). -/
def takeAttention (_ : Unit) (s : State) : State × Option Reply :=
  ({ s with road := { s.road with flags := 0 } },
    some (done (.attention s.road.flags s.port.mode)))

/-- TAKE_ATTENTION (R198). -/
def execTakeAttention (sent : Shifted) (s : State) : Out :=
  request 0x40 sent (withBody noBody sent.bytes takeAttention) s

/-- SET_ENABLES, its body read (R197). -/
def setEnables (x : BitVec 14 × Bool) (s : State) : State × Option Reply :=
  let s' := { s with port := { s.port with enables := x.1, master := x.2 } }
  (s', some (done (.enables s'.road.flags (attentionLine s'))))

/-- SET_ENABLES (R197). -/
def execSetEnables (sent : Shifted) (s : State) : Out :=
  request 0x41 sent (withBody enablesBody sent.bytes setEnables) s

/-- ATTEND, its body read (R200). -/
def attend (interval : Nat) (s : State) : State × Option Reply :=
  ({ s with port := { s.port with mode := .attended, interval := interval } },
    some (done (.mode s.port.mode)))

/-- ATTEND (R200). -/
def execAttend (sent : Shifted) (s : State) : Out :=
  request 0x42 sent (withBody attendBody sent.bytes attend) s

/-- The mode becomes UNATTENDED: the host interval timer stops and Path Watch gets a mode notice
(R162, R199, R200). -/
def State.leaveAttended (s : State) : State :=
  let s := { s with port := { s.port with mode := .unattended, timer := none } }
  { s with road := (s.road.modeNotice s.env).readyTests s.env }

/-- UNATTEND, its body read (R200). -/
def unattend (_ : Unit) (s : State) : State × Option Reply :=
  let stand := s.road.flags &&& s.port.enables
  if stand ≠ 0 then (s, some { code := .notClear, body := .flags stand })
  else if s.port.mode = .unattended then (s, some (refusal .badState))
  else (s.leaveAttended, some (done .empty))

/-- UNATTEND (R200). -/
def execUnattend (sent : Shifted) (s : State) : Out :=
  request 0x43 sent (withBody noBody sent.bytes unattend) s

/-! ### The clock (R184, R185) -/

/-- The Posting Table takes a pass-time event, in RUNNING (R10, R184). -/
def State.passTimeEvent (s : State) : State :=
  match s.part with
  | .running => s.hand (s.road.passTimeEvent s.env)
  | .planning => s

/-- SET_TIME, its body read (R184). -/
def setTime (t : Nat) (s : State) : State × Option Reply :=
  (State.passTimeEvent { s with cru := { s.cru with passTime := t, timeValid := true } },
    some (done (.timeBefore s.cru.passTime s.cru.timeValid)))

/-- SET_TIME (R184). -/
def execSetTime (sent : Shifted) (s : State) : Out :=
  request 0x48 sent (withBody num4 sent.bytes setTime) s

/-- READ_TIME's reply (R185). -/
def timeReply (s : State) (_ : Unit) : Reply :=
  done (.time s.cru.passTime s.cru.timeValid s.cru.startCause)

/-- READ_TIME (R185). -/
def execReadTime (sent : Shifted) (s : State) : Out :=
  request 0x49 sent (withBody noBody sent.bytes (reads timeReply)) s

/-! ### Other transactions (R192 to R194) -/

/-- A frame whose code names no request: taken, and answered BAD_REQUEST (R193). -/
def execUnknownRequestCode (code : Byte) (sent : Shifted) (s : State) : Out :=
  request code sent (fun s => (s, some (refusal .badRequest))) s

/-- A malformed request frame: answered FRAME_ERROR on a READY port, discarded on a BUSY or UNREAD
one (R193, R195). -/
def execRequestFrameError (sent : Shifted) (s : State) : Out :=
  let s' := s.shiftOut (s.idleBytes sent.bytes.length sent.begunBusy)
  .next (if s.cru.working = true ∧ s.port.state = .ready then
    State.place { s' with port := { s'.port with
      buffer := sent.bytes.take (Config.storedBody + 3) } } (refusal .frameError)
  else s')

/-- A reply read (R192, R194). -/
def execReplyRead (sent : Clocked) (s : State) : Out :=
  .next (s.readReply sent.count sent.begunBusy)

end Sys2Proof.Machine
end

