-- ==== Sys2Proof/Machine/PlanRequests.lean ====
section
/-! DEFINITION. The site plan: the PLAN requests, READ_PLAN, COMMISSION and DECOMMISSION (R169 to
R180). -/

namespace Sys2Proof.Machine

/-! ### Building the plan (R170 to R175) -/

/-- A PLAN request: it changes the plan alone, and is answered DONE (R170). -/
def edits {α : Type} (f : α → Plan → Plan) (x : α) : Handler := fun s =>
  ({ s with plan := f x s.plan }, some (done .empty))

/-- The road's segment count (R171). -/
def Plan.setRoad (n : Nat) (p : Plan) : Plan := { p with road := some n }
/-- Set or remove a unit (R172). -/
def Plan.setUnit (x : UnitId × Option PlanUnit) (p : Plan) : Plan :=
  { p with units := vset p.units (unitIdx x.1) x.2 }
/-- Set or remove a section (R173). -/
def Plan.setSec (x : Fin 8 × Option PlanSection) (p : Plan) : Plan :=
  { p with sections := vset p.sections x.1 x.2 }
/-- Set a detector (R174). -/
def Plan.setDetector (x : Fin 16 × PlanDetector) (p : Plan) : Plan :=
  { p with detectors := vset p.detectors x.1 x.2 }
/-- Set or remove a path (R175). -/
def Plan.setPath (x : Fin 24 × Option PlanPath) (p : Plan) : Plan :=
  { p with paths := vset p.paths x.1 x.2 }

/-- PLAN_ROAD (R171). -/
def execPlanRoad (sent : Shifted) (s : State) : Out :=
  request 0x50 sent (inPart .planning (withBody (within1 1 64) sent.bytes (edits Plan.setRoad))) s

/-- PLAN_UNIT (R172). -/
def execPlanUnit (sent : Shifted) (s : State) : Out :=
  request 0x51 sent (inPart .planning (withBody planUnitBody sent.bytes (edits Plan.setUnit))) s

/-- PLAN_SECTION (R173). -/
def execPlanSection (sent : Shifted) (s : State) : Out :=
  request 0x52 sent (inPart .planning (withBody planSectionBody sent.bytes (edits Plan.setSec))) s

/-- PLAN_DETECTOR (R174). -/
def execPlanDetector (sent : Shifted) (s : State) : Out :=
  request 0x53 sent (inPart .planning (withBody planDetectorBody sent.bytes (edits Plan.setDetector))) s

/-- PLAN_PATH (R175). -/
def execPlanPath (sent : Shifted) (s : State) : Out :=
  request 0x54 sent (inPart .planning (withBody planPathBody sent.bytes (edits Plan.setPath))) s

/-! ### READ_PLAN (R176) -/

/-- The next planned index above one, in a class of numbered items. -/
def nextNumber {n : Nat} (planned : Fin n → Bool) (i : Fin n) : Option PlanIndex :=
  ((List.finRange n).find? fun j => decide (i.val < j.val) && planned j).map fun j => .number j.val

/-- The next planned unit above one, lines before addresses. -/
def Plan.nextUnit (p : Plan) (u : UnitId) : Option PlanIndex :=
  (allUnits.find? fun v => decide ((unitIdx u).val < (unitIdx v).val) && (p.unit v).isSome).map
    PlanIndex.unit

/-- The item READ_PLAN asks for, and the next planned index of its class (R176). -/
def Plan.read (p : Plan) : PlanAsk → Option PlanItem × Option PlanIndex
  | .road => (p.road.map PlanItem.road, none)
  | .unit u => ((p.unit u).map PlanItem.unit, p.nextUnit u)
  | .sec i => ((p.sec i).map PlanItem.sec, nextNumber (fun j => (p.sec j).isSome) i)
  | .detector i => (some (.detector (p.detector i)), nextNumber (fun _ => true) i)
  | .path i => ((p.path i).map PlanItem.path, nextNumber (fun j => (p.path j).isSome) i)

/-- READ_PLAN's reply (R176). -/
def readPlanReply (s : State) (a : PlanAsk) : Reply :=
  let x := s.plan.read a
  { code := if x.1.isSome then .done else .none, body := .planItem x.1 x.2 }

/-- READ_PLAN (R176). -/
def execReadPlan (sent : Shifted) (s : State) : Out :=
  request 0x55 sent (withBody readPlanBody sent.bytes (reads readPlanReply)) s

/-! ### COMMISSION (R177, R178) -/

/-- The first index of a class at which a check fails, with the second item it names. -/
def firstFault {α β : Type} (l : List α) (f : α → Option β) : Option (α × β) :=
  (l.filterMap fun x => (f x).map fun y => (x, y)).head?

/-- A check that fails as it stands, with no second item. -/
def failsWhen (t : Bool) : Option (Option PlanIndex) := if t then some none else none

/-- A failed check of a class of numbered items. -/
def numbered {n : Nat} (check : Nat) (cls : PlanClass) (l : List (Fin n))
    (f : Fin n → Option (Option PlanIndex)) : Option BadPlan :=
  (firstFault l f).map fun x =>
    { check := check, cls := cls, index := some (.number x.1.val), second := x.2 }

/-- A failed check of the planned sections. -/
def Plan.sectionCheck (p : Plan) (check : Nat)
    (f : Fin 8 → PlanSection → Option (Option PlanIndex)) : Option BadPlan :=
  numbered check .sec allSections fun i => (p.sec i).bind (f i)

/-- A failed check of the planned gate numbers. -/
def Plan.gateCheck (p : Plan) (check : Nat) (f : Fin 16 → Option (Option PlanIndex)) :
    Option BadPlan :=
  numbered check .gate allGates fun g => if (p.gateUnit g).isSome then f g else none

/-- How many planned GATE units carry a gate number. -/
def Plan.gateCarriers (p : Plan) (g : Fin 16) : Nat :=
  (allUnits.filter fun u => ((p.unit u).bind PlanUnit.gateNumber?) == some g).length

/-- The sections whose entry gate list names a gate, ascending. -/
def Plan.gateSections (p : Plan) (g : Fin 16) : List (Fin 8) :=
  allSections.filter fun i => (p.sec i).any fun x => x.gates.contains g

/-- The view of a planned SIGN or GATE unit. -/
def Plan.viewOf (p : Plan) (u : UnitId) : Option View := (p.unit u).bind PlanUnit.view?

/-- The first lower-numbered section that shares a segment with a section (check 5). -/
def Plan.sharer (p : Plan) (i : Fin 8) (x : PlanSection) : Option (Fin 8) :=
  allSections.find? fun j => decide (j.val < i.val) &&
    (p.sec j).any fun y => meets x.first x.last y.first y.last

/-- The 13 plan checks of R177, in order, against a road of `n` segments. Checks 6, 9 and 10 name the
first failing gate or unit of the section's list (log 17). -/
def Plan.checks (p : Plan) (n : Nat) : List (Option BadPlan) :=
  let whenIn := fun (l : List UnitId) (f : UnitId → Bool) => (l.find? f).map fun u =>
    some (PlanIndex.unit u)
  [ (if p.road.isNone then some { check := 1, cls := .road, index := none, second := none }
      else none),
    (firstFault allUnits fun u => failsWhen ((p.viewOf u).any fun v => n ≤ v.first)).map fun x =>
      { check := 2, cls := .unit, index := some (.unit x.1), second := none },
    p.gateCheck 3 fun g => failsWhen (2 ≤ p.gateCarriers g),
    p.sectionCheck 4 fun _ x => failsWhen (n ≤ x.last),
    p.sectionCheck 5 fun i x => (p.sharer i x).map fun j => some (.number j.val),
    p.sectionCheck 6 fun _ x =>
      (x.gates.find? fun g => (p.gateUnit g).isNone).map fun g => some (.number g.val),
    p.gateCheck 7 fun g => failsWhen (p.gateSections g).isEmpty,
    p.gateCheck 8 fun g => ((p.gateSections g).drop 1).head?.map fun j => some (.number j.val),
    p.sectionCheck 9 fun _ x => whenIn x.approach fun u => (p.viewOf u).isNone,
    p.sectionCheck 10 fun _ x => whenIn x.approach fun u =>
      (p.viewOf u).any fun v => !v.meets n x.first x.last,
    numbered 11 .detector allInputs fun d => failsWhen ((p.detector d).assign.any fun a =>
      (p.sec a.1).isNone),
    numbered 12 .path allPaths fun q => failsWhen ((p.path q).any fun x => x.segs.any (n ≤ ·)),
    numbered 13 .path allPaths fun q => failsWhen ((p.path q).any fun x => x.monitor.any fun u =>
      p.unit u != some .monitor) ]

/-- The first plan check that fails (R177). -/
def Plan.fault (p : Plan) : Option BadPlan := ((p.checks (p.road.getD 0)).filterMap id).head?

/-- The DONE body of COMMISSION (R178). -/
def Plan.commissionView (p : Plan) : CommissionView :=
  { reserve := p.pathCount + p.gateCount, segments := p.road.getD 0, sections := p.sectionCount,
    gates := p.gateCount, units := p.unitCount, paths := p.pathCount, detectors := p.detectorCount }

/-- COMMISSION, its body read (R177, R178). -/
def commission (_ : Unit) (s : State) : State × Option Reply :=
  if s.cru.timeValid = false then (s, some (refusal .badState))
  else
    match s.plan.fault with
    | some b => (s, some { code := .badPlan, body := .badPlan b })
    | none =>
      ({ s with part := .running, road := s.road.commissioned s.plan s.pins },
        some (done (.commissioned s.plan.commissionView)))

/-- COMMISSION (R177). -/
def execCommission (sent : Shifted) (s : State) : Out :=
  request 0x56 sent (inPart .planning (withBody noBody sent.bytes commission)) s

/-! ### DECOMMISSION (R179, R180) -/

/-- A section state that DECOMMISSION waits for (R179). -/
def SecState.unrested : SecState → Bool
  | .notice | .shutting | .sweep | .opening => true
  | .isOpen | .closed | .clearable => false

/-- What stands in the way of DECOMMISSION, in the order of R179. After a report that trips a path R179
speaks of the closure's entry in the queue; where no unit is affected that entry has left by R84, and the
closure's pin is the reason: the model follows R84 (log 42). -/
def State.blocked (s : State) : Option ReplyBody :=
  let r := s.road
  match (firstFault allSections fun i => (r.secState i).filter SecState.unrested) with
  | some (i, st) => some (.blockedBySection i.val st)
  | none =>
    if r.queue ≠ [] then some (.blockedByQueue r.queue.length)
    else
      (firstFault allSlots fun i =>
        ((r.slot i).posting.bind (·.pin)).filter (s.cru.passTime < ·)).map fun x =>
          .blockedByPin (r.handleAt x.1) x.2

/-- DECOMMISSION, its body read (R179, R180). -/
def decommission (_ : Unit) (s : State) : State × Option Reply :=
  match s.blocked with
  | some b => (s, some { code := .notClear, body := b })
  | none => ({ s with part := .planning, road := s.road.decommissioned }, some (done .empty))

/-- DECOMMISSION (R179). -/
def execDecommission (sent : Shifted) (s : State) : Out :=
  request 0x57 sent (inPart .running (withBody noBody sent.bytes decommission)) s

end Sys2Proof.Machine
end

