-- ==== Sys2Proof/Machine/LineEvents.lean ====
section
/-! DEFINITION. The answers of the field lines, and their absence (R44 to R63). -/

namespace Sys2Proof.Machine

/-- A STATUS answer (R48, R53). -/
def execStatus (l : Fin 4) (addr : Byte) (rep : Report) (s : State) : Out :=
  onRoad (fun e r => r.answered e l addr (Road.takeStatus e rep l)) s

/-- An ACK answer (R55, R57 to R61). -/
def execAck (l : Fin 4) (addr : Byte) (s : State) : Out :=
  onRoad (fun e r => r.answered e l addr (Road.takeAck e l)) s

/-- An ACK_BURST answer (R57, R58). -/
def execAckBurst (l : Fin 4) (addr : Byte) (s : State) : Out :=
  onRoad (fun e r => r.answered e l addr (Road.takeText l .burst)) s

/-- An ACK_SINGLE answer (R57, R59). -/
def execAckSingle (l : Fin 4) (addr : Byte) (s : State) : Out :=
  onRoad (fun e r => r.answered e l addr (Road.takeText l (.line 0))) s

/-- A NAK answer (R55, R57 to R63). -/
def execNak (l : Fin 4) (addr : Byte) (s : State) : Out :=
  onRoad (fun e r => r.answered e l addr (Road.takeNak e l)) s

/-- An AMEND_DATA answer with its TEXT frames (R62). -/
def execAmendData (l : Fin 4) (addr base : Byte) (severity : Option Nat)
    (text : Option (List (List Byte))) (s : State) : Out :=
  onRoad (fun e r => r.answered e l addr (Road.takeAmend e l base severity text)) s

/-- An answer taken as no answer (R45, R204). -/
def execNoAnswer (l : Fin 4) (s : State) : Out := onRoad (fun e r => r.unanswered e l) s

/-- The 50 ms response or character limit runs out: no answer (R44, R45). -/
def execFieldResponseTimeout (l : Fin 4) (s : State) : Out := onRoad (fun e r => r.unanswered e l) s

end Sys2Proof.Machine
end

