-- ==== Sys2Proof/Machine/TimerEvents.lean ====
section
/-! DEFINITION. Elapsed timers that reach their limits, and detector edges (R94, R118, R122, R130,
R143 to R145, R158, R199). A timer command is taken at face value while its timer runs (log 2). -/

namespace Sys2Proof.Machine

/-! ### Section Control -/

/-- The notice timer of a section in NOTICE stands at L: readiness is tested (R118). -/
def Road.noticeReachesLead (i : Fin 8) (e : Env) (r : Road) : Road :=
  match r.sec i with
  | some x =>
    if x.state = .notice then
      Road.leadRun e i (r.setSec i { x with notice := some (max (x.notice.getD 0) (leadMs e i)) })
    else r
  | none => r

/-- The notice timer reaches L (R118). -/
def execNoticeTimerReachesL (i : Fin 8) (s : State) : Out := onRoad (Road.noticeReachesLead i) s

/-- The notice timer of a section in NOTICE stands at L + W: SHUTTING, ready or not (R118). -/
def Road.noticeWaitOver (i : Fin 8) (e : Env) (r : Road) : Road :=
  if r.secState i = some .notice then r.enterShutting e i else r

/-- The notice timer reaches L + W (R118). -/
def execNoticeWaitRunOut (i : Fin 8) (s : State) : Out := onRoad (Road.noticeWaitOver i) s

/-- The sweep minimum of a section in SWEEP has run: its timer stops, and the sweep is tested (R122). -/
def Road.sweepMinimumRun (i : Fin 8) (e : Env) (r : Road) : Road :=
  match r.sec i with
  | some x =>
    if x.state = .sweep ∧ x.sweepMin.isSome then
      Road.sweepTest e i (r.setSec i { x with sweepMin := none })
    else r
  | none => r

/-- The sweep-minimum timer reaches its limit (R122). -/
def execSweepMinimumRun (i : Fin 8) (s : State) : Out := onRoad (Road.sweepMinimumRun i) s

/-- The sweep overdue of a section in SWEEP has run: overdue reported is set and SWEEP_OVERDUE too
(R122). -/
def Road.sweepOverdueRun (i : Fin 8) (_ : Env) (r : Road) : Road :=
  match r.sec i with
  | some x =>
    if x.state = .sweep ∧ x.sweepOver.isSome then
      (r.setSec i { x with sweepOver := none, overdue := true }).raise .sweepOverdue
    else r
  | none => r

/-- The sweep-overdue timer reaches its limit (R122). -/
def execSweepOverdueRun (i : Fin 8) (s : State) : Out := onRoad (Road.sweepOverdueRun i) s

/-- A gate's travel timer reaches its limit (R130). -/
def execTravelLimitReached (g : Fin 16) (s : State) : Out := onRoad (fun e r => r.travelLimit e g) s

/-! ### Path Watch -/

/-- A path's window timer reaches W (R158). -/
def execWindowRunOut (p : Fin 24) (s : State) : Out := onRoad (fun _ r => r.windowRunOut p) s

/-! ### Counting Channels -/

/-- The level of an input pin. -/
def State.setPin (s : State) (i : Fin 16) (x : Level) : State := { s with pins := vset s.pins i x }

/-- A rise on a detector input (R143). -/
def execDetectorRise (i : Fin 16) (s : State) : Out :=
  onRoad (fun _ r => r.rise i) (s.setPin i .high)

/-- A fall on a detector input (R144). -/
def execDetectorFall (i : Fin 16) (s : State) : Out :=
  onRoad (fun e r => r.fall e i) (s.setPin i .low)

/-- A high timer reaches the stuck limit (R145). -/
def execStuckLimitReached (i : Fin 16) (s : State) : Out := onRoad (fun e r => r.stuckLimit e i) s

/-! ### SETTLE and the host interval -/

/-- The settle timer reaches the SETTLE's timeout (R94). -/
def execSettleTimeout (s : State) : Out :=
  .next (if s.cru.working = true ∧ s.road.settle.isSome = true then s.timeOutSettle else s)

/-- The host interval timer stands at its setting: one that a request or a reply read has restarted in
between does not, and no silence follows (R199). -/
def Port.silent (p : Port) : Bool := p.timer.any fun ms => secMs p.interval ≤ ms

/-- The host interval timer reaches its setting (R199). -/
def execHostIntervalRunOut (s : State) : Out :=
  .next (if s.cru.working = true ∧ s.port.silent = true then
    State.leaveAttended { s with road := s.road.raise .hostSilent } else s)

end Sys2Proof.Machine
end

