-- ==== Sys2Proof/Machine/SupplyEvents.lean ====
section
/-! DEFINITION. Pass-time seconds, the supply, the reset pin and the backup cell (R182, R187 to
R191). -/

namespace Sys2Proof.Machine

/-- The CRU advances pass time by one second; at 2^32-1 it stands (R182). -/
def Cru.advanced (c : Cru) : Cru := { c with passTime := min (c.passTime + 1) Config.maxPassTime }

/-- A pass-time second: a pass-time event too while the blocks work (R10, R182). -/
def execPassTimeSecond (s : State) : Out :=
  let s' := { s with cru := s.cru.advanced }
  .next (if s.cru.working then s'.passTimeEvent else s')

/-- Mains loss (R187). While the reset pin holds the blocks stopped it only makes their start wait
(R190). -/
def execMainsLoss (s : State) : Out :=
  .next (if s.cru.mains then
    let s' := { s with cru := { s.cru with mains := false, mainsLost := true } }
    if s.cru.working then s'.stop else s'
  else s)

/-- Mains return (R189): a start, unless the reset pin is held. -/
def execMainsReturn (s : State) : Out :=
  .next (if s.cru.mains then s
  else
    let s' := { s with cru := { s.cru with mains := true } }
    if s.cru.pinHeld then s' else s'.start .warmMain)

/-- The reset pin is asserted: taken while mains is present (R190). -/
def execResetPinAsserted (s : State) : Out :=
  let s' := { s with cru := { s.cru with pinHeld := true } }
  .next (if s.cru.mains = true ∧ s.cru.working = true then s'.stop else s')

/-- The reset pin is released: a start when the blocks stand stopped with mains present; its cause is
WARM_MAIN when mains was lost during the stop (R189, R190). -/
def execResetPinReleased (s : State) : Out :=
  let s' := { s with cru := { s.cru with pinHeld := false } }
  .next (if s.cru.mains = true ∧ s.cru.working = false then
    s'.start (if s.cru.mainsLost then .warmMain else .warmPin)
  else s')

/-- The backup cell cannot hold the domain during an outage: its contents decay, the check word with
them (R188, log 9). -/
def execBackupDomainLost (s : State) : Out :=
  .next (if s.cru.mains then s else { s with cru := { s.cru with intact := false } })

end Sys2Proof.Machine
end

