-- ==== Sys2Proof/Machine/Clock.lean ====
section
/-! DEFINITION. One millisecond of the part's oscillator: what a step does with no command waiting
(R182, R186, log 1). Every running elapsed timer advances, and a timer that reaches its limit puts its
own command in the queue. -/

namespace Sys2Proof.Machine

/-- A running timer one millisecond on. -/
def oneMs (t : Option Nat) : Option Nat := t.map (· + 1)

/-- A running timer reaches a limit with this millisecond. -/
def reaches (limit : Nat) (t : Option Nat) : Bool := t.any fun n => n + 1 == limit

/-- A command, when its time has come. -/
def whenDue (b : Bool) (c : Instr) : List Instr := if b then [c] else []

/-! ### Timers one millisecond on -/

/-- A section record's timers. -/
def SectionRec.ticked (x : SectionRec) : SectionRec :=
  { x with notice := oneMs x.notice, sweepMin := oneMs x.sweepMin, sweepOver := oneMs x.sweepOver }

/-- A gate record's travel timer. -/
def GateRec.ticked (x : GateRec) : GateRec := { x with timer := oneMs x.timer }

/-- An input record's high timer. -/
def InputRec.ticked (x : InputRec) : InputRec := { x with timer := oneMs x.timer }

/-- A path record's window timer. -/
def PathRec.ticked (x : PathRec) : PathRec := { x with timer := oneMs x.timer }

/-- A line's response timer, up to its limit (R44, log 4). -/
def Line.ticked (x : Line) : Line :=
  { x with inFlight := x.inFlight.map fun ex => { ex with ms := min (ex.ms + 1) Config.responseMs } }

/-- Every timer of the road blocks. -/
def Road.ticked (r : Road) : Road :=
  { r with
    sections := vofFn fun i => (r.sec i).map SectionRec.ticked
    gates := vofFn fun g => (r.gate g).map GateRec.ticked
    inputs := vofFn fun i => (r.input i).ticked
    paths := vofFn fun p => (r.path p).map PathRec.ticked
    lines := vofFn fun l => (r.line l).ticked
    settle := r.settle.map fun st => { st with ms := st.ms + 1 } }

/-! ### Limits reached with this millisecond, in a fixed order (log 3) -/

/-- A section's timers (R118, R122). A notice wait of 0 ends with the lead time itself. -/
def sectionDue (e : Env) (r : Road) (i : Fin 8) : List Instr :=
  match e.plan.sec i, r.sec i with
  | some x, some y =>
    whenDue (reaches (secMs x.lead) y.notice) (.noticeTimerReachesL i)
      ++ whenDue (x.wait != 0 && reaches (secMs (x.lead + x.wait)) y.notice) (.noticeWaitRunOut i)
      ++ whenDue (reaches (secMs x.sweepMin) y.sweepMin) (.sweepMinimumRun i)
      ++ whenDue (reaches (secMs x.sweepOver) y.sweepOver) (.sweepOverdueRun i)
  | _, _ => []

/-- A gate's travel timer (R130). -/
def gateDue (r : Road) (g : Fin 16) : List Instr :=
  match r.gate g with
  | some x => whenDue (reaches (secMs x.travel) x.timer) (.travelLimitReached g)
  | none => []

/-- An input's high timer (R145). -/
def inputDue (e : Env) (r : Road) (i : Fin 16) : List Instr :=
  whenDue (reaches (secMs (e.plan.detector i).stuck) (r.input i).timer) (.stuckLimitReached i)

/-- A path's window timer (R158). -/
def pathDue (e : Env) (r : Road) (p : Fin 24) : List Instr :=
  match e.plan.path p, r.path p with
  | some x, some y => whenDue (reaches (secMs x.window) y.timer) (.windowRunOut p)
  | _, _ => []

/-- A line's response timer (R44). The frame is sent in no time and an answer is one event, so what has
not come in 50 ms from the sending has not begun (log 4). -/
def lineDue (r : Road) (l : Fin 4) : List Instr :=
  whenDue ((r.line l).inFlight.any fun ex => ex.ms + 1 == Config.responseMs) (.fieldResponseTimeout l)

/-- The timer commands of the road blocks. -/
def Road.due (e : Env) (r : Road) : List Instr :=
  allSections.flatMap (sectionDue e r) ++ allGates.flatMap (gateDue r)
    ++ allInputs.flatMap (inputDue e r) ++ allPaths.flatMap (pathDue e r)
    ++ (List.finRange 4).flatMap (lineDue r)
    ++ whenDue (r.settle.any fun st => st.ms + 1 == secMs st.timeout) .settleTimeout

/-- Every timer command of a millisecond while the blocks work. -/
def State.due (s : State) : List Instr :=
  s.road.due s.env
    ++ whenDue (reaches (secMs s.port.interval) s.port.timer) .hostIntervalRunOut

/-! ### The tick -/

/-- The oscillator's millisecond within the second (R182). -/
def Cru.ticked (c : Cru) : Cru := { c with phase := if c.phase + 1 < 1000 then c.phase + 1 else 0 }

/-- One millisecond passes with no command waiting. The seconds are counted with mains or without it;
the elapsed timers only while the blocks work (R182, R186, R187). -/
def State.tick (s : State) : State :=
  let second := whenDue (!decide (s.cru.phase + 1 < 1000)) .passTimeSecond
  if s.cru.working then
    { s with cru := s.cru.ticked, road := s.road.ticked,
             port := { s.port with timer := oneMs s.port.timer },
             pending := s.pending ++ second ++ s.due }
  else { s with cru := s.cru.ticked, pending := s.pending ++ second }

end Sys2Proof.Machine
end

