-- ==== Sys2Proof/Machine/Dispatch.lean ====
section
/-! DEFINITION. One arm per command: its meaning. -/

namespace Sys2Proof.Machine

def exec (i : Instr) (s : State) : Host.Outcome State Fault Refusal :=
  match i with
  | .post sent => Sys2Proof.Machine.execPost sent s
  | .change sent => Sys2Proof.Machine.execChange sent s
  | .retire sent => Sys2Proof.Machine.execRetire sent s
  | .lookup sent => Sys2Proof.Machine.execLookup sent s
  | .scan sent => Sys2Proof.Machine.execScan sent s
  | .walk sent => Sys2Proof.Machine.execWalk sent s
  | .describe sent => Sys2Proof.Machine.execDescribe sent s
  | .unitStatus sent => Sys2Proof.Machine.execUnitStatus sent s
  | .sectionStatus sent => Sys2Proof.Machine.execSectionStatus sent s
  | .gateStatus sent => Sys2Proof.Machine.execGateStatus sent s
  | .detectorStatus sent => Sys2Proof.Machine.execDetectorStatus sent s
  | .pathStatus sent => Sys2Proof.Machine.execPathStatus sent s
  | .releaseSection sent => Sys2Proof.Machine.execReleaseSection sent s
  | .forceSweep sent => Sys2Proof.Machine.execForceSweep sent s
  | .confirmClear sent => Sys2Proof.Machine.execConfirmClear sent s
  | .gateRetry sent => Sys2Proof.Machine.execGateRetry sent s
  | .settle sent => Sys2Proof.Machine.execSettle sent s
  | .abort sent => Sys2Proof.Machine.execAbort sent s
  | .takeAttention sent => Sys2Proof.Machine.execTakeAttention sent s
  | .setEnables sent => Sys2Proof.Machine.execSetEnables sent s
  | .attend sent => Sys2Proof.Machine.execAttend sent s
  | .unattend sent => Sys2Proof.Machine.execUnattend sent s
  | .setTime sent => Sys2Proof.Machine.execSetTime sent s
  | .readTime sent => Sys2Proof.Machine.execReadTime sent s
  | .planRoad sent => Sys2Proof.Machine.execPlanRoad sent s
  | .planUnit sent => Sys2Proof.Machine.execPlanUnit sent s
  | .planSection sent => Sys2Proof.Machine.execPlanSection sent s
  | .planDetector sent => Sys2Proof.Machine.execPlanDetector sent s
  | .planPath sent => Sys2Proof.Machine.execPlanPath sent s
  | .readPlan sent => Sys2Proof.Machine.execReadPlan sent s
  | .commission sent => Sys2Proof.Machine.execCommission sent s
  | .decommission sent => Sys2Proof.Machine.execDecommission sent s
  | .unknownRequestCode code sent => Sys2Proof.Machine.execUnknownRequestCode code sent s
  | .replyRead sent => Sys2Proof.Machine.execReplyRead sent s
  | .hostIntervalRunOut => Sys2Proof.Machine.execHostIntervalRunOut s
  | .settleTimeout => Sys2Proof.Machine.execSettleTimeout s
  | .passTimeSecond => Sys2Proof.Machine.execPassTimeSecond s
  | .mainsLoss => Sys2Proof.Machine.execMainsLoss s
  | .mainsReturn => Sys2Proof.Machine.execMainsReturn s
  | .resetPinAsserted => Sys2Proof.Machine.execResetPinAsserted s
  | .resetPinReleased => Sys2Proof.Machine.execResetPinReleased s
  | .status line addr report => Sys2Proof.Machine.execStatus line addr report s
  | .ack line addr => Sys2Proof.Machine.execAck line addr s
  | .ackBurst line addr => Sys2Proof.Machine.execAckBurst line addr s
  | .ackSingle line addr => Sys2Proof.Machine.execAckSingle line addr s
  | .nak line addr => Sys2Proof.Machine.execNak line addr s
  | .amendData line addr base severity text => Sys2Proof.Machine.execAmendData line addr base severity text s
  | .noAnswer line => Sys2Proof.Machine.execNoAnswer line s
  | .fieldResponseTimeout line => Sys2Proof.Machine.execFieldResponseTimeout line s
  | .windowRunOut path => Sys2Proof.Machine.execWindowRunOut path s
  | .travelLimitReached gate => Sys2Proof.Machine.execTravelLimitReached gate s
  | .noticeTimerReachesL sec => Sys2Proof.Machine.execNoticeTimerReachesL sec s
  | .noticeWaitRunOut sec => Sys2Proof.Machine.execNoticeWaitRunOut sec s
  | .sweepMinimumRun sec => Sys2Proof.Machine.execSweepMinimumRun sec s
  | .sweepOverdueRun sec => Sys2Proof.Machine.execSweepOverdueRun sec s
  | .detectorRise input => Sys2Proof.Machine.execDetectorRise input s
  | .detectorFall input => Sys2Proof.Machine.execDetectorFall input s
  | .stuckLimitReached input => Sys2Proof.Machine.execStuckLimitReached input s
  | .requestFrameError sent => Sys2Proof.Machine.execRequestFrameError sent s
  | .backupDomainLost => Sys2Proof.Machine.execBackupDomainLost s

end Sys2Proof.Machine
end

