-- ==== Sys2Proof/Safety.lean ====
section
/-! DEFINITION. What the statements speak of: a port that can take a request, a request taken and
answered, and the laws of the device that every step keeps. -/

namespace Sys2Proof.Machine

/-! ### Requests -/

/-- The port can take a request: the blocks work and it is READY (R187, R192). -/
def Taking (s : State) : Prop := s.cru.working = true ∧ s.port.state = .ready

/-- What the port shifts out while a request of `n` bytes is shifted in on a READY port: the status
byte, then fillers (R202). -/
def readyBytes (n : Nat) : List Byte := 0x01 :: List.replicate (n - 1) 0x00

/-- The host interval timer as each reply restarts it (R199). -/
def restartedTimer (m : Mode) (interval : Nat) : Option Nat :=
  if m = .attended ∧ interval ≠ 0 then some 0 else none

/-- The port right after a request was taken and answered (R192, R193, R199, R202, R203). -/
def Port.answered (p : Port) (code : Byte) (body : List Byte) (rep : Reply) : Port :=
  { p with state := .unread, reply := some rep,
           buffer := code :: be16 body.length ++ body.take 300,
           out := readyBytes (body.length + 4), timer := restartedTimer p.mode p.interval,
           overtaken := false }

/-- A state after a request that did nothing but get its answer. -/
def State.replied (s : State) (code : Byte) (body : List Byte) (rep : Reply) : State :=
  { s with port := s.port.answered code body rep }

/-- A reply that carries a result code and no body. -/
def plain (c : Result) : Reply := { code := c, body := .empty }

/-! ### Which requests, which events -/

/-- The requests that are taken in RUNNING alone (R32, R65, R92, R95, R136, R137, R149, R165, R169,
R179, chapter 1.7). -/
def inRunning : Instr → Bool
  | .post .. | .change .. | .retire .. | .lookup .. | .scan .. | .walk .. | .unitStatus ..
  | .sectionStatus .. | .gateStatus .. | .detectorStatus .. | .pathStatus .. | .releaseSection ..
  | .forceSweep .. | .confirmClear .. | .gateRetry .. | .settle .. | .abort .. | .decommission .. =>
    true
  | _ => false

/-- The requests that are taken in PLANNING alone (R169). -/
def inPlanning : Instr → Bool
  | .planRoad .. | .planUnit .. | .planSection .. | .planDetector .. | .planPath ..
  | .commission .. => true
  | _ => false

/-- A request's body has no fault of form (R203). -/
def goodForm : Instr → Bool
  | .post ⟨b, _⟩ => (readBody postBody b).isSome
  | .change ⟨b, _⟩ => (readBody changeBody b).isSome
  | .retire ⟨b, _⟩ => (readBody retireBody b).isSome
  | .lookup ⟨b, _⟩ => (readBody handleField b).isSome
  | .scan ⟨b, _⟩ => (readBody scanBody b).isSome
  | .walk ⟨b, _⟩ => (readBody walkBody b).isSome
  | .unitStatus ⟨b, _⟩ => (readBody unitIn b).isSome
  | .sectionStatus ⟨b, _⟩ | .releaseSection ⟨b, _⟩ | .forceSweep ⟨b, _⟩ | .confirmClear ⟨b, _⟩ =>
    (readBody (index 8) b).isSome
  | .gateStatus ⟨b, _⟩ | .detectorStatus ⟨b, _⟩ | .gateRetry ⟨b, _⟩ => (readBody (index 16) b).isSome
  | .pathStatus ⟨b, _⟩ => (readBody (index 24) b).isSome
  | .settle ⟨b, _⟩ => (readBody (within2 1 600) b).isSome
  | .setEnables ⟨b, _⟩ => (readBody enablesBody b).isSome
  | .attend ⟨b, _⟩ => (readBody attendBody b).isSome
  | .setTime ⟨b, _⟩ => (readBody num4 b).isSome
  | .planRoad ⟨b, _⟩ => (readBody (within1 1 64) b).isSome
  | .planUnit ⟨b, _⟩ => (readBody planUnitBody b).isSome
  | .planSection ⟨b, _⟩ => (readBody planSectionBody b).isSome
  | .planDetector ⟨b, _⟩ => (readBody planDetectorBody b).isSome
  | .planPath ⟨b, _⟩ => (readBody planPathBody b).isSome
  | .readPlan ⟨b, _⟩ => (readBody readPlanBody b).isSome
  | .describe ⟨b, _⟩ | .abort ⟨b, _⟩ | .takeAttention ⟨b, _⟩ | .unattend ⟨b, _⟩ | .readTime ⟨b, _⟩
  | .commission ⟨b, _⟩ | .decommission ⟨b, _⟩ => b.isEmpty
  | _ => true

/-- The commands that reach the road blocks alone: answers on the field lines, the blocks' own timers,
and detector edges. -/
def fromRoad : Instr → Bool
  | .status .. | .ack .. | .ackBurst .. | .ackSingle .. | .nak .. | .amendData .. | .noAnswer _
  | .fieldResponseTimeout _ | .windowRunOut _ | .travelLimitReached _ | .noticeTimerReachesL _
  | .noticeWaitRunOut _ | .sweepMinimumRun _ | .sweepOverdueRun _ | .detectorRise _
  | .detectorFall _ | .stuckLimitReached _ => true
  | _ => false

/-- The field line a command is an answer on. -/
def lineOf : Instr → Option (Fin 4)
  | .status l _ _ | .ack l _ | .ackBurst l _ | .ackSingle l _ | .nak l _ | .amendData l _ _ _ _
  | .noAnswer l | .fieldResponseTimeout l => some l
  | _ => none

/-- An input as COMMISSION and a warm start put it to work: UNUSED with no section, else WORKING at the
level found, its counters 0, the timer started and the partial mark set when that is HIGH (R150,
R151). -/
structure PutToWork (d : PlanDetector) (level : Level) (x : InputRec) : Prop where
  unused  : d.assign = none → x =
    { state := .unused, level := none, timer := none, partialMark := false, counted := 0, short := 0 }
  working : d.assign ≠ none → x =
    { state := .working, level := some level, timer := if level = .high then some 0 else none,
      partialMark := decide (level = .high), counted := 0, short := 0 }

/-- A line as its first round finds it: POLL to its lowest planned address, or nothing to send (R67,
R68). -/
structure FirstRound (p : Plan) (l : Fin 4) (x : Line) : Prop where
  polls  : ∀ a, p.unit ⟨l, a⟩ ≠ none → (∀ b, b < a → p.unit ⟨l, b⟩ = none) →
    x = { pointer := some a, inFlight := some { addr := a, sent := .poll, ms := 0 },
          transfer := none, orders := [] }
  silent : (∀ a, p.unit ⟨l, a⟩ = none) →
    x = { pointer := none, inFlight := none, transfer := none, orders := [] }

/-- The records that every start in RUNNING makes anew from the plan, COMMISSION too: links SEEKING,
copy slots UNKNOWN, an empty queue, lines in their first round, inputs put to work, occupancies UNKNOWN
(R67, R68, R97, R98, R150, R151). -/
structure FreshBlocks (s t : State) : Prop where
  links  : ∀ u, t.road.link u = match s.plan.unit u with
    | some x => { kind := some x.kind, state := .seeking, misses := 0, last := none }
    | none => { kind := none, state := .unplanned, misses := 0, last := none }
  copies : ∀ u, t.road.awaits u = false ∧ t.road.dirOf u =
    List.replicate (((s.plan.unit u).map fun x => slotCount x.kind).getD 0) .unknown
  queue  : t.road.queue = [] ∧ t.road.work = none ∧ t.road.settle = none
  lines  : ∀ l, FirstRound s.plan l (t.road.line l)
  inputs : ∀ i, PutToWork (s.plan.detector i) (vget s.pins i) (t.road.input i)
  occ    : ∀ i, t.road.occOf i = (s.plan.sec i).map fun _ => .unknown

/-- What no event of the road blocks changes: plan, part state, clock, supply and the waiting commands,
and the port but for the end of a SETTLE's wait, which places SETTLED with the whole seconds waited and
restarts the host interval timer (R93, R199). The mark `overtaken`, by which the port tells a transaction
that the end has overtaken, is the model's choice (log 5). -/
structure RoadEvent (s t : State) : Prop where
  plan    : t.plan = s.plan
  part    : t.part = s.part
  cru     : t.cru = s.cru
  pending : t.pending = s.pending
  going   : t.road.settle.isSome = s.road.settle.isSome → t.port = s.port
  settled : ∀ st, s.road.settle = some st → t.road.settle = none →
    t.port = { s.port with state := .unread,
                           reply := some { code := .settled, body := .waited (st.ms / 1000) },
                           timer := restartedTimer s.port.mode s.port.interval,
                           overtaken := true }

/-- What a request leaves as it was when it acts on the road blocks alone. -/
structure RoadRequest (s t : State) (code : Byte) (body : List Byte) (rep : Reply) : Prop where
  plan    : t.plan = s.plan
  part    : t.part = s.part
  cru     : t.cru = s.cru
  pins    : t.pins = s.pins
  pending : t.pending = s.pending
  port    : t.port = s.port.answered code body rep

/-- A detail that suits a kind: none for CLOSURE and NOTICE, a level, a class or a speed for the others
(R3, R22). -/
def DetailSuits (k : PKind) (d : Option Nat) : Prop :=
  match k with
  | .closure | .notice => d = none
  | .danger => ∃ n ≤ 4, d = some n
  | .restriction => ∃ n ≤ 3, d = some n
  | .limit => ∃ n, 1 ≤ n ∧ n ≤ 12 ∧ d = some n

/-- A POST body without a fault of R22: place, severity, detail, urgency and text suit the kind, and the
expiry lies after pass time and after a later start. -/
structure GoodPost (s : State) (b : PostBody) : Prop where
  place    : (b.kind = .danger → ∃ n x, b.place = .path n ∧ plannedPath s.env n = some x) ∧
    (b.kind ≠ .danger → ∃ f l, b.place = .span f l ∧ f ≤ l ∧ l < s.env.roadLen)
  severity : b.severity ≤ 7
  detail   : DetailSuits b.kind b.detail
  urgency  : b.urgency.isSome = true ↔ b.kind = .closure
  text     : goodText b.text = true ∧ (b.kind = .notice → b.text ≠ [])
  expiry   : ∀ x, b.expiry = some x → s.cru.passTime < x ∧ ∀ t, b.start = some t → t < x

/-- A POST asks for a DANGER on a path that has a PENDING or ACTIVE one (R21). -/
def DangerTaken (r : Road) (b : PostBody) : Prop :=
  b.kind = .danger ∧ ∃ i p n, (r.slot i).posting = some p ∧ p.kind = .danger ∧
    p.state ≠ .retiring ∧ b.place = .path n ∧ p.path = some n

/-- FREE slots are more than the unused reserve (R8). -/
def RoomToPost (r : Road) : Prop := r.unusedReserve < r.freeSlots

/-- The posting as a CHANGE leaves its fields, its state aside: each given field replaces the old value,
and a change of kind drops the old detail and urgency (R25, R26). -/
structure Changed (b : ChangeBody) (p q : Posting) : Prop where
  kind     : q.kind = b.kind.getD p.kind
  span     : (q.first, q.last) = b.span.getD (p.first, p.last)
  severity : q.severity = b.severity.getD p.severity
  detail   : q.detail = b.detail.getD (if q.kind = p.kind then p.detail else none)
  urgency  : q.urgency = b.urgency.getD (if q.kind = p.kind then p.urgency else none)
  text     : q.text = b.text.getD p.text
  start    : q.start = if b.start.isSome then b.start else p.start
  expiry   : q.expiry = if b.removeExpiry then none else if b.expiry.isSome then b.expiry else p.expiry
  pin      : q.pin = if b.pin.isSome then b.pin else p.pin
  held     : q.authority = p.authority ∧ q.path = p.path ∧ q.cause = p.cause ∧ q.source = p.source

/-- A CHANGE gives a carried field (R26). -/
def TouchesCarried (b : ChangeBody) : Prop :=
  b.kind ≠ none ∨ b.span ≠ none ∨ b.severity ≠ none ∨ b.detail ≠ none ∨ b.urgency ≠ none ∨
    b.text ≠ none

/-- A CHANGE body without a fault of R25, for a posting `p` that would stand as `q`. -/
structure GoodChange (s : State) (b : ChangeBody) (p q : Posting) : Prop where
  asks     : TouchesCarried b ∨ b.start ≠ none ∨ b.expiry ≠ none ∨ b.pin ≠ none ∨
    b.removeExpiry = true
  removal  : ¬ (b.expiry ≠ none ∧ b.removeExpiry = true) ∧ b.removePin = false
  kind     : ∀ k, b.kind = some k → k ≠ .danger ∧ p.kind ≠ .danger
  span     : ∀ f l, b.span = some (f, l) → p.kind ≠ .danger ∧ f ≤ l ∧ l < s.env.roadLen
  severity : ∀ v, b.severity = some v → v ≤ 7
  given    : b.detail ≠ some none ∧ b.urgency ≠ some none
  detail   : DetailSuits q.kind q.detail
  urgency  : q.urgency.isSome = true ↔ q.kind = .closure
  text     : goodText q.text = true ∧ (q.kind = .notice → q.text ≠ [])
  pin      : ∀ t old, b.pin = some t → p.pin = some old → old ≤ t
  expiry   : ∀ x, b.expiry = some x → s.cru.passTime < x ∧
    (p.state = .pending → ∀ t, q.start = some t → t < x)
  start    : ∀ t x, b.start = some t → b.expiry = none → b.removeExpiry = false →
    p.expiry = some x → t < x

/-- A directory record after the marking of a posting's copies (R17). -/
def markedRecord (overrule : Bool) : CopySlot → CopySlot
  | .current h v => .behind h v
  | .amended h v => if overrule then .overruled h v else .amended h v
  | c => c

/-- The queue with an entry appended or coalesced: it goes into an equal not-yet-started entry with no
settle marker behind it, else to the tail (R75). -/
def joined (q : List Entry) (en : Entry) : List Entry :=
  if en ∈ q.tail.reverse.takeWhile (· != .marker) then q else q ++ [en]

/-- A posting's entry goes to the queue `r` as R75 gives, and `r'` is the queue after the event: on a
standing queue it coalesces into an equal not-yet-started entry with no settle marker behind it, or
takes the tail; on an empty one it is started, and stays as head while some ONLINE unit with copy slots
names the posting or sees its span (R80). Entries that the event's notices make may follow. -/
def EntryMade (e : Env) (r r' : Road) (h : Handle) : Prop :=
  (r.queue ≠ [] → headStep e r = none → joined r.queue (.posting h) <+: r'.queue) ∧
  (r.queue = [] → r.work = none →
    (∃ u, r.online u = true ∧ r.dirOf u ≠ [] ∧ r'.concerns e h u = true) →
    r'.queue.head? = some (.posting h))

/-- The posting in a slot has been freed, generation and version count kept; the event may have taken the
slot since for a closure of the controller's own, at the next generation and version (R1, R4, R14, R18,
R19). -/
def Vacated (s t : Road) (i : Fin 256) : Prop :=
  t.slot i = { s.slot i with posting := none } ∨
    ∃ q, q.authority ≠ .station ∧ t.slot i =
      { gen := (s.slot i).gen + 1, version := (s.slot i).version + 1, posting := some q }

/-- A slot through an event that asks nothing of its posting: a STATION posting stands as it stood, or
was RETIRING and has been freed; an ACTIVE AUTO closure keeps all but a pin that may move later; and a
FREE slot is taken for a closure of the controller's own alone (R5, R12, R14, R15, R18, R19). -/
structure SlotKept (s t : Road) (i : Fin 256) : Prop where
  station : ∀ p, (s.slot i).posting = some p → p.authority = .station →
    t.slot i = s.slot i ∨ p.state = .retiring ∧ Vacated s t i
  auto    : ∀ p, (s.slot i).posting = some p → p.authority = .auto → p.state = .active →
    ∃ pin, t.slot i = { s.slot i with posting := some { p with pin := pin } } ∧
      ∀ x, p.pin = some x → ∃ y, pin = some y ∧ x ≤ y
  free    : (s.slot i).posting = none → Vacated s t i

/-- A posting is PENDING and its start has passed (R10, part 1). -/
def starts (now : Nat) (p : Posting) : Bool := p.state == .pending && p.start.all (· ≤ now)

/-- A posting is ACTIVE, or starts in this event, its expiry has passed, and its pin is absent or has
passed (R10, part 2). -/
def expires (now : Nat) (p : Posting) : Bool :=
  (p.state == .active || starts now p) && p.expiry.any (· ≤ now) && p.pin.all (· ≤ now)

/-- An entry of the queue or a copy slot names a handle (R14). -/
def StillNamed (r : Road) (h : Handle) : Prop :=
  Entry.posting h ∈ r.queue ∨ ∃ u, ∃ c ∈ r.dirOf u, c.handle? = some h

/-- A slot holds a RETIRING posting `q` while an entry or a copy slot names it, and is freed when none
does (R14). -/
def RetiringWhileNamed (s t : Road) (i : Fin 256) (q : Posting) : Prop :=
  (StillNamed t (s.handleAt i) → t.slot i = { s.slot i with posting := some q }) ∧
  (¬ StillNamed t (s.handleAt i) → Vacated s t i)

/-- The handles of the postings that start or expire in a pass-time event, in slot order (R10). -/
def dueHandles (now : Nat) (r : Road) : List Handle :=
  (allSlots.filter fun i => (r.slot i).posting.any fun p => starts now p || expires now p).map
    r.handleAt

/-- What a pass-time event at `e.now` makes of the table, the directory and the queue: each posting whose
start has passed stands ACTIVE; each whose expiry and pin have passed stands RETIRING with cause EXPIRED,
or is freed when nothing names it, with its copies marked and POSTING_EXPIRED set; RETIRING ones are
tested for freeing; every other posting stays, but for the AUTO closures that danger notices act on. The
entries of those that start or expire are appended or coalesced in slot order: on a standing queue
at its tail, and on an empty one from the first posting on that concerns an ONLINE unit, since the
entries before it have no affected unit and leave (R10 to R14, R17, R74, R75, R80, R84, R184). -/
structure UpToDate (e : Env) (s t : Road) : Prop where
  started  : ∀ i p, (s.slot i).posting = some p → p.authority ≠ .auto → starts e.now p = true →
    expires e.now p = false →
    t.slot i = { s.slot i with posting := some { p with state := .active } }
  expired  : ∀ i p, (s.slot i).posting = some p → expires e.now p = true →
    RetiringWhileNamed s t i { p with state := .retiring, cause := some .expired }
  retiring : ∀ i p, (s.slot i).posting = some p → p.authority ≠ .auto → p.state = .retiring →
    RetiringWhileNamed s t i p
  stays    : ∀ i p, (s.slot i).posting = some p → p.authority ≠ .auto → p.state ≠ .retiring →
    starts e.now p = false → expires e.now p = false → t.slot i = s.slot i
  rest     : ∀ i, (∀ p, (s.slot i).posting = some p → p.authority = .auto) → SlotKept s t i
  marked   : ∀ (u : UnitId) (n : Nat) (c : CopySlot) (h : Handle) (p : Posting),
    (s.dirOf u)[n]? = some c → c.handle? = some h → s.named h = some p → expires e.now p = true →
    (t.dirOf u)[n]? = some (markedRecord false c)
  unmarked : ∀ (u : UnitId) (n : Nat) (c : CopySlot), (s.dirOf u)[n]? = some c →
    (∀ h p, c.handle? = some h → s.named h = some p →
      p.authority ≠ .auto ∧ expires e.now p = false) → (t.dirOf u)[n]? = some c
  flag     : hasFlag t.flags .postingExpired = (hasFlag s.flags .postingExpired ||
    allSlots.any fun i => (s.slot i).posting.any (expires e.now))
  appended : s.queue ≠ [] → headStep e s = none →
    s.queue ++ ((dueHandles e.now s).map Entry.posting).filter (fun en =>
      !(s.queue.tail.reverse.takeWhile (· != .marker)).contains en) <+: t.queue
  begun    : s.queue = [] → s.work = none →
    ((dueHandles e.now s).dropWhile fun h => !allUnits.any fun u =>
      t.online u && !(t.dirOf u).isEmpty && t.concerns e h u).map Entry.posting <+: t.queue

/-! ### What a unit is due -/

/-- A posting's span shares a segment with a view, which is clipped at the road end (R73, R172). -/
def sees (e : Env) (v : View) (p : Posting) : Bool :=
  match v.dir with
  | .south => v.first ≤ p.last && p.first ≤ min (v.first + (v.len - 1)) (e.roadLen - 1)
  | .north => v.first - (v.len - 1) ≤ p.last && p.first ≤ v.first

/-- A posting qualifies for a unit of a view and a kind mask: it is ACTIVE, its span meets the view and
its kind is in the mask (R73). -/
def qualifies (e : Env) (v : View) (mask : BitVec 5) (p : Posting) : Bool :=
  p.state == .active && sees e v p && mask.getLsbD p.kind.rank

/-- The same of the unit that the plan gives an address. -/
def QualifiesFor (e : Env) (u : UnitId) (p : Posting) : Prop :=
  ∃ x v, e.plan.unit u = some x ∧ x.view? = some v ∧ qualifies e v x.mask p = true

/-- The qualifying postings that rank before posting `p` in slot `i`, seen from the view's first segment
in its direction (R33, R73). -/
def Road.rankedAbove (e : Env) (r : Road) (v : View) (mask : BitVec 5) (i : Fin 256) (p : Posting) :
    List (Fin 256) :=
  allSlots.filter fun j => (r.slot j).posting.any fun q =>
    qualifies e v mask q && ranksBefore v.first v.dir (j, q) (i, p)

/-- A posting is in a unit's wanted set: it qualifies, and fewer qualifying postings rank before it than
the unit has copy slots (R73). -/
def Wants (e : Env) (r : Road) (u : UnitId) (h : Handle) : Prop :=
  ∃ x v p, e.plan.unit u = some x ∧ x.view? = some v ∧ r.named h = some p ∧
    qualifies e v x.mask p = true ∧
    (r.rankedAbove e v x.mask h.slot p).length < slotCount x.kind

/-- One posting ranks before another for a unit (R33, R73). -/
def RanksOver (e : Env) (r : Road) (u : UnitId) (h h' : Handle) : Prop :=
  ∀ x v p q, e.plan.unit u = some x → x.view? = some v → r.named h = some p → r.named h' = some q →
    ranksBefore v.first v.dir (h.slot, p) (h'.slot, q) = true

/-- The lowest number that has a property. -/
def Lowest (f : Nat → Prop) (n : Nat) : Prop := f n ∧ ∀ m, m < n → ¬ f m

/-- A copy slot is due an update: BEHIND or OVERRULED, naming a wanted posting (R81, item 1). -/
def UpdateDue (e : Env) (r : Road) (u : UnitId) (n : Nat) (h : Handle) : Prop :=
  Wants e r u h ∧ ∃ v, (r.dirOf u)[n]? = some (.behind h v) ∨ (r.dirOf u)[n]? = some (.overruled h v)

/-- A copy slot is CURRENT, BEHIND or OVERRULED and names no wanted posting (R81, item 3, R82). -/
def Unwanted (e : Env) (r : Road) (u : UnitId) (n : Nat) (h : Handle) : Prop :=
  ¬ Wants e r u h ∧ ∃ v, (r.dirOf u)[n]? = some (.current h v) ∨
    (r.dirOf u)[n]? = some (.behind h v) ∨ (r.dirOf u)[n]? = some (.overruled h v)

/-- A wanted posting that no copy slot of the unit names (R73). -/
def Missing (e : Env) (r : Road) (u : UnitId) (h : Handle) : Prop :=
  Wants e r u h ∧ ∀ c ∈ r.dirOf u, c.handle? ≠ some h

/-- The posting to be placed: the highest-ranked missing one (R81, item 2). -/
def ToPlace (e : Env) (r : Road) (u : UnitId) (h : Handle) : Prop :=
  Missing e r u h ∧ ∀ h', Missing e r u h' → h' ≠ h → RanksOver e r u h h'

/-- The handle of a copy slot puts it in a victim class: 1 it names no posting, 2 a RETIRING one, 3 an
ACTIVE one outside view or mask, 4 an ACTIVE one inside both (R82). A PENDING posting falls into none
(log 35). -/
def VictimClass (e : Env) (r : Road) (u : UnitId) (h : Handle) (k : Nat) : Prop :=
  (k = 1 ∧ r.named h = none) ∨
  ∃ p, r.named h = some p ∧ (k = 2 ∧ p.state = .retiring ∨
    k = 3 ∧ p.state = .active ∧ ¬ QualifiesFor e u p ∨ k = 4 ∧ QualifiesFor e u p)

/-- The victim of a placement: the first class that has a slot, there the lowest slot, but in class 4
the slot of the lowest-ranked posting (R82). -/
def IsVictim (e : Env) (r : Road) (u : UnitId) (n : Nat) : Prop :=
  ∃ k h, Unwanted e r u n h ∧ VictimClass e r u h k ∧
    ∀ j m h', Unwanted e r u m h' → VictimClass e r u h' j → k ≤ j ∧ (j = k →
      (k ≠ 4 ∨ h' = h → n ≤ m) ∧ (k = 4 → h' ≠ h → RanksOver e r u h' h))

/-- The target of a placement: the lowest EMPTY slot, else the victim (R81, R82). -/
def IsTarget (e : Env) (r : Road) (u : UnitId) (n : Nat) : Prop :=
  Lowest (fun m => (r.dirOf u)[m]? = some .empty) n ∨
    (∀ m : Nat, (r.dirOf u)[m]? ≠ some .empty) ∧ IsVictim e r u n

/-- A transfer into a copy slot of a unit, at its first step: it carries the overrule mark when the slot
is OVERRULED (R56, R81, R105). -/
def Road.into (r : Road) (u : UnitId) (n : Nat) (kind : XKind) (step : XStep) : Transfer :=
  { addr := u.addr, kind := kind, slot := n,
    overrule := (r.dirOf u)[n]?.any CopySlot.isOverruled, step := step, tries := 0 }

/-- A load and commit of the present image of the posting a handle names (R56, R81). -/
def Loads (r : Road) (u : UnitId) (n : Nat) (h : Handle) (x : Transfer) : Prop :=
  ∃ p, r.named h = some p ∧ x = r.into u n (.load
    { handle := h, version := (r.slot h.slot).version, kind := p.kind, first := p.first,
      last := p.last, severity := p.severity, detail := p.detail, urgency := p.urgency,
      text := p.text }) .load

/-- A unit's next transfer in the reconcile phase: the update of the lowest slot due one, else the
placement of the best missing posting where a target can be had, else the clear of the lowest slot that
names no wanted posting (R81). -/
def ItemFor (e : Env) (r : Road) (u : UnitId) (x : Transfer) : Prop :=
  (∃ n h, UpdateDue e r u n h ∧ (∀ m h', UpdateDue e r u m h' → n ≤ m) ∧ Loads r u n h x) ∨
  (∀ n h, ¬ UpdateDue e r u n h) ∧
    ((∃ n h, ToPlace e r u h ∧ IsTarget e r u n ∧ Loads r u n h x) ∨
      (∀ n h, ToPlace e r u h → ¬ IsTarget e r u n) ∧
        ∃ n h, Unwanted e r u n h ∧ (∀ m h', Unwanted e r u m h' → n ≤ m) ∧
          x = r.into u n .clear .clear)

/-- A unit has no item: nothing to update, to place or to clear (R81). -/
structure NoItem (e : Env) (r : Road) (u : UnitId) : Prop where
  update : ∀ n h, ¬ UpdateDue e r u n h
  place  : ∀ n h, ToPlace e r u h → ¬ IsTarget e r u n
  clear  : ∀ n h, ¬ Unwanted e r u n h

/-! ### What an entry of the queue asks -/

/-- An entry fetches a copy slot: AMENDED and naming the entry's posting, or AMENDED and of the entry's
unit (R77, R85). -/
def FetchDue (r : Road) (en : Entry) (u : UnitId) (n : Nat) : Prop :=
  ∃ h v, (r.dirOf u)[n]? = some (.amended h v) ∧ (en = .posting h ∨ en = .unit u)

/-- An entry affects a unit: it is ONLINE, and is the entry's own, or has copy slots and names the entry's
posting or sees its span (R80, R85). -/
def Affects (e : Env) (r : Road) (en : Entry) (u : UnitId) : Prop :=
  r.online u = true ∧ (en = .unit u ∨ ∃ h, en = .posting h ∧ r.dirOf u ≠ [] ∧
    ((∃ c ∈ r.dirOf u, c.handle? = some h) ∨ ∃ p x v, r.named h = some p ∧
      e.plan.unit u = some x ∧ x.view? = some v ∧ sees e v p = true))

/-- An entry has nothing left to do: no slot to fetch, and no affected unit that has an item or awaits
report (R78, R80, R83, R84). -/
def WorkedOff (e : Env) (r : Road) (en : Entry) : Prop :=
  (∀ u n, r.online u = true → ¬ FetchDue r en u n) ∧
    ∀ u, Affects e r en u → r.awaits u = false ∧ NoItem e r u

/-- The fetch items that head work has left for a line, in order. -/
def HeadWork.itemsLeft (w : HeadWork) (l : Fin 4) : List FetchItem :=
  w.fetch.filter fun it => it.unit.line == l && !it.ended

/-- The affected units that head work has left for a line, in order. -/
def HeadWork.unitsLeft (w : HeadWork) (l : Fin 4) : List UnitId :=
  w.affected.filter fun u => u.line == l && !w.ended.contains u

/-- The head entry has work left for a unit with a property: a fetch item, or an affected unit (R78,
R84). -/
def Road.LeftFor (r : Road) (f : UnitId → Prop) : Prop :=
  ∃ w, r.work = some w ∧
    (w.phase = .fetch ∧ (∃ it ∈ w.fetch, it.ended = false ∧ f it.unit) ∨
      w.phase = .reconcile ∧ ∃ u ∈ w.affected, u ∉ w.ended ∧ f u)

/-- A fetch item can still be fetched for the head entry (R78). -/
def Fetchable (r : Road) (en : Entry) (w : HeadWork) (it : FetchItem) : Prop :=
  r.online it.unit = true ∧ it.unit ∉ w.ended ∧ ∃ h v,
    (r.dirOf it.unit)[it.slot]? = some (.amended h v) ∧ ∀ h', en = .posting h' → h' = h

/-- The transfer that the head entry gives a line: in the fetch phase the fetch of the first item the line
has left, in the reconcile phase the next item of the first unit it has left; that unit is ONLINE and
does not await report (R51, R78, R80, R81, R85). -/
def HeadGives (e : Env) (r : Road) (l : Fin 4) (x : Transfer) : Prop :=
  ∃ en q w, r.queue = en :: q ∧ r.work = some w ∧
    (w.phase = .fetch ∧ (∃ it rest h v, w.itemsLeft l = it :: rest ∧ Fetchable r en w it ∧
        r.awaits it.unit = false ∧ (r.dirOf it.unit)[it.slot]? = some (.amended h v) ∧
        x = { addr := it.unit.addr, kind := .fetch h, slot := it.slot, overrule := false,
              step := .fetch, tries := 0 }) ∨
      w.phase = .reconcile ∧ ∃ u rest, w.unitsLeft l = u :: rest ∧ r.online u = true ∧
        r.awaits u = false ∧ ItemFor e r u x)

/-- The head entry gives a line nothing: the queue is empty, the line has worked its part, or its next
unit awaits report (R51, R78, R80, R84, R85). -/
def HeadWaits (r : Road) (l : Fin 4) : Prop :=
  ∀ en q w, r.queue = en :: q → r.work = some w →
    (w.phase = .fetch → ∀ it rest, w.itemsLeft l = it :: rest →
      Fetchable r en w it ∧ r.awaits it.unit = true) ∧
    (w.phase = .reconcile → ∀ u rest, w.unitsLeft l = u :: rest →
      r.online u = true ∧ r.awaits u = true)

/-- The fetch set of an entry that the event has started, line by line in address and slot order, and the
affected units of one whose reconcile phase it has begun, in address order (R77, R80, R85). -/
structure HeadFixed (e : Env) (s t : Road) : Prop where
  fetch    : ∀ en w, t.queue.head? = some en → t.work = some w → w.phase = .fetch →
    (s.queue.head? ≠ some en ∨ ∀ w', s.work = some w' → w'.phase = .reconcile) →
    (∀ u n, (∃ it ∈ w.fetch, it.unit = u ∧ it.slot = n) ↔ t.online u = true ∧ FetchDue t en u n) ∧
    w.fetch.Pairwise fun a b => unitIdx a.unit < unitIdx b.unit ∨ a.unit = b.unit ∧ a.slot < b.slot
  affected : ∀ en w, t.queue.head? = some en → t.work = some w → w.phase = .reconcile →
    (s.queue.head? ≠ some en ∨ ∀ w', s.work = some w' → w'.phase = .fetch) →
    (∀ u, (u ∈ w.affected → Affects e t en u) ∧
      (Affects e t en u → u ∈ w.affected ∨ u ∈ w.ended)) ∧
    w.affected.Pairwise fun a b => unitIdx a < unitIdx b

/-- What an event of a field line takes from the head entry's work, for units other than those of `own`: a
fetch item is passed over only when it can be fetched no longer, and an affected unit is finished only
when it has no item or is no longer ONLINE (R78, R80, R81, R83). `own` is the unit of a transfer that the
event has carried on, whose failure ends its part (R87). -/
structure HeadPassed (e : Env) (s t : Road) (own : UnitId → Prop) : Prop where
  items : ∀ en q w it, s.queue = en :: q → s.work = some w → w.phase = .fetch → it ∈ w.fetch →
    it.ended = false → ¬ own it.unit →
    (∃ w', t.work = some w' ∧ w'.phase = .fetch ∧ it ∈ w'.fetch) ∨ ¬ Fetchable t en w it
  units : ∀ en q w u, s.queue = en :: q → s.work = some w → w.phase = .reconcile → u ∈ w.affected →
    u ∉ w.ended → ¬ own u →
    (∃ w', t.work = some w' ∧ w'.phase = .reconcile ∧ u ∈ w'.affected ∧ u ∉ w'.ended) ∨
      t.online u = false ∨ NoItem e t u

/-! ### Closures of the controller's own -/

/-- What an AUTO action of a path does at the table, by the link it finds and the link it leaves, where
pass time plus the hold H is a pass time (log 7): an ACTIVE closure has its pin extended to pass time
plus H, a RETIRING one is revived with that pin, the next version and its copies marked, and with none a
closure of the path's span is made in the lowest FREE slot; a closure revived or made has its entry in the
queue until that is worked off (R17, R18, R20, R74, R164). -/
structure AutoActed (s t : State) (p : Fin 24) (pl : PlanPath) (old new : Option Handle) (pin : Nat) :
    Prop where
  extended : ∀ h q, old = some h → s.road.named h = some q → q.state ≠ .retiring →
    new = some h ∧ t.road.slot h.slot = { s.road.slot h.slot with
      posting := some { q with pin := some (max (q.pin.getD 0) pin) } }
  revived  : ∀ h q, old = some h → s.road.named h = some q → q.state = .retiring →
    new = some h ∧ t.road.slot h.slot =
      { gen := h.gen, version := s.road.version h + 1,
        posting := some { q with state := .active, cause := none, pin := some pin } } ∧
    ∀ (u : UnitId) (n : Nat) (c : CopySlot), (s.road.dirOf u)[n]? = some c → c.handle? = some h →
      (t.road.dirOf u)[n]? = some (markedRecord false c)
  created  : ∀ i, (∀ h, old = some h → s.road.named h = none) → (s.road.slot i).posting = none →
    (∀ j, j < i → (s.road.slot j).posting ≠ none) →
    new = some ⟨i, (s.road.slot i).gen + 1⟩ ∧ t.road.slot i =
      { gen := (s.road.slot i).gen + 1, version := (s.road.slot i).version + 1,
        posting := some
          { state := .active, kind := .closure, authority := .auto, first := pl.first,
            last := pl.last, path := some p.val, severity := 7, detail := none,
            urgency := some .immediate, text := [], start := none, expiry := none, pin := some pin,
            cause := none, source := none } }
  queued   : ∀ h, (∀ q, old = some h → s.road.named h = some q → q.state = .retiring) →
    (s.road.queue = [] → s.road.work = none) → new = some h →
    .posting h ∈ t.road.queue ∨ WorkedOff s.env t.road (.posting h)

/-- What Section Control does at the table for a gate shut under LOCAL key while its standing order is
OPEN, by the FIELD link the report finds and the link it leaves: a closure that stands stays, a RETIRING
one is revived at the next version with its copies marked, and else one of the section's span is made in
the lowest FREE slot, also where the report has dropped the last copy of a RETIRING one and so freed it
(R14, R17, R19, R20, R134). `own` is the gate's unit, whose copies the report records. -/
structure FieldActed (s t : Road) (own : UnitId) (z : PlanSection) (old new : Option Handle) : Prop where
  stands  : ∀ h q, old = some h → s.named h = some q → q.state ≠ .retiring →
    new = some h ∧ t.slot h.slot = s.slot h.slot
  revived : ∀ h q, old = some h → s.named h = some q → q.state = .retiring →
    new = some h ∧ t.slot h.slot =
        { gen := h.gen, version := s.version h + 1,
          posting := some { q with state := .active, cause := none, pin := none } } ∧
      (∀ (u : UnitId) (n : Nat) (c : CopySlot), u ≠ own → (s.dirOf u)[n]? = some c →
        c.handle? = some h → (t.dirOf u)[n]? = some (markedRecord false c)) ∨
    new ≠ some h ∧ Vacated s t h.slot
  created : ∀ h, new = some h → old ≠ some h →
    (∀ j, j < h.slot → (s.slot j).posting ≠ none) ∧ h.gen = (s.slot h.slot).gen + 1 ∧
    t.slot h.slot =
      { gen := h.gen, version := (s.slot h.slot).version + 1,
        posting := some
          { state := .active, kind := .closure, authority := .field, first := z.first,
            last := z.last, path := none, severity := 6, detail := none,
            urgency := some .immediate, text := [], start := none, expiry := none, pin := none,
            cause := none, source := none } }

/-- What Section Control does with an ACTIVE FIELD closure when its gate's key is REMOTE: the closure is
RETIRING with cause KEY_RETURN, or freed when nothing names it any longer, and its copies are marked (R13,
R14, R17, R19, R135). `own` is the gate's unit, whose copies the report records. -/
structure FieldReturned (s t : Road) (own : UnitId) (h : Handle) (q : Posting) : Prop where
  retired : RetiringWhileNamed s t h.slot { q with state := .retiring, cause := some .keyReturn }
  marked  : ∀ (u : UnitId) (n : Nat) (c : CopySlot), u ≠ own → (s.dirOf u)[n]? = some c →
    c.handle? = some h → (t.dirOf u)[n]? = some (markedRecord false c)

/-- What a change of standing order to `d` does to a gate that stood as `z` and stands as `w` after the
event: under key REMOTE at a known position the order is made, PENDING, with an entry in that direction
on its unit's line, and a jam gives way to the reported position; otherwise it is only recorded, IDLE.
Either way the travel timer stops (R128). -/
structure Ordered (t : Road) (d : Order) (z w : GateRec) : Prop where
  standing : w.standing = d
  held     : w.sec = z.sec ∧ w.unit = z.unit ∧ w.travel = z.travel ∧ w.reported = z.reported ∧
    w.key = z.key ∧ w.timer = none
  made     : z.key = some .remote → z.pos ≠ .unknown → w.phase = .pending ∧
    (z.pos ≠ .jammed → w.pos = z.pos) ∧
    (z.pos = .jammed → ∀ p, z.reported = some p → w.pos = posOfReport p) ∧
    ∃ o ∈ (t.line z.unit.line).orders, o.addr = z.unit.addr ∧ o.dir = d ∧ o.withdrawn = false
  recorded : z.key ≠ some .remote ∨ z.pos = .unknown → w.phase = .idle ∧ w.pos = z.pos

/-- Every entry gate of a section whose standing order is not yet `d` has it made or recorded, and every
other gate stands as it stood (R120, R124, R128). -/
structure GatesOrdered (s t : State) (i : Fin 8) (d : Order) : Prop where
  turned : ∀ g ∈ sectionGates s.env i, ∀ z, s.road.gate g = some z → z.standing ≠ d →
    ∃ w, t.road.gate g = some w ∧ w.link = z.link ∧ Ordered t.road d z w
  others : ∀ g, (g ∉ sectionGates s.env i ∨ ∃ z, s.road.gate g = some z ∧ z.standing = d) →
    t.road.gate g = s.road.gate g
  lines  : ∀ l, (t.road.line l).inFlight = (s.road.line l).inFlight ∧
    (t.road.line l).transfer = (s.road.line l).transfer ∧
    (t.road.line l).pointer = (s.road.line l).pointer ∧
    ∀ o, (∀ g ∈ sectionGates s.env i, ∀ z, s.road.gate g = some z → z.unit ≠ ⟨l, o.addr⟩) →
      (o ∈ (t.road.line l).orders ↔ o ∈ (s.road.line l).orders)

/-- What a path makes of its danger level in an event of the table, as it stood in `x` and stands in `y`:
with a new level a COUNTING path whose trips meet the threshold now in force trips, and a SILENT one acts
when the level has risen to its silent closure level or above; everything else stays. The AUTO link is
the table's (R153, R154, R155, R158, R159). -/
structure DangerTold (t : State) (pl : PlanPath) (x y : PathRec) : Prop where
  trips  : y.level ≠ x.level → x.watch = .counting → pl.threshold y.level ≠ 0 →
    pl.threshold y.level ≤ x.count → y.watch = .quiet ∧ y.timer = none ∧ y.count = 0 ∧
      y.baseline = x.baseline ∧ y.last = some (.trip, t.cru.passTime) ∧
      hasFlag t.road.flags .pathTrip = true
  silent : x.watch = .silent → x.level < y.level → pl.silent ≤ y.level →
    y = { x with level := y.level, link := y.link, last := some (.silent, t.cru.passTime) }
  stays  : y.level = x.level ∨ (x.watch = .counting → pl.threshold y.level = 0 ∨
      x.count < pl.threshold y.level) ∧ (x.watch = .silent → y.level < x.level ∨
      y.level < pl.silent) → y = { x with level := y.level, link := y.link }

/-- The commands that change postings at the table: the host's requests on them, and pass time. -/
def actsOnTable : Instr → Bool
  | .post .. | .change .. | .retire .. | .setTime .. | .passTimeSecond => true
  | _ => false

/-- A unit has no copy slots and no part in the head entry's work, as a MONITOR never has (R69, R77,
R80). -/
def Road.Uncopied (r : Road) (u : UnitId) : Prop :=
  r.dirOf u = [] ∧ ∀ w, r.work = some w → u ∉ w.affected ∧ ∀ it ∈ w.fetch, it.unit ≠ u

/-- The exchange in flight on a line. -/
def Flying (s : State) (l : Fin 4) (a : Fin 12) (sent : Sent) : Prop :=
  ∃ ms, (s.road.line l).inFlight = some { addr := a, sent := sent, ms := ms }

/-! ### What a line sends next -/

/-- A line begins its next round: POLL to the next planned address above the poll pointer, and from the
highest on to the lowest one; the pointer becomes that address. A line with no planned unit sends nothing
(R50). -/
structure PollsNext (s t : Road) (l : Fin 4) : Prop where
  polls  : ∀ a, (t.link ⟨l, a⟩).kind ≠ none → ∃ b, (t.link ⟨l, b⟩).kind ≠ none ∧
    (t.line l).pointer = some b ∧
    (t.line l).inFlight = some { addr := b, sent := .poll, ms := 0 } ∧
    ((∃ p, (s.line l).pointer = some p ∧ p < b ∧
        ∀ c, p < c → c < b → (t.link ⟨l, c⟩).kind = none) ∨
      (∀ p, (s.line l).pointer = some p → ∀ c, p < c → (t.link ⟨l, c⟩).kind = none) ∧
        ∀ c, c < b → (t.link ⟨l, c⟩).kind = none)
  silent : (∀ a, (t.link ⟨l, a⟩).kind = none) → (t.line l).inFlight = none

/-- The oldest gate order of a line for a unit that is ONLINE (R51). -/
def oldestOrder (r : Road) (l : Fin 4) : Option GateOrder :=
  (r.line l).orders.find? fun o => (r.link ⟨l, o.addr⟩).state == .online

/-- What a line sends when an exchange on it has ended. After a POLL it has a work opportunity: the oldest
gate order for an ONLINE unit, else the next exchange of the transfer in progress, else the first one of
the transfer that the head entry has for the line, which is taken, else its next round. After a work
exchange it begins its next round. A transfer in progress outlasts a POLL and a GATE_ORDER unless its
unit is lost (R49 to R51, R56, R78, R80, R81). That the same opportunity passes over what is finished and
looks on, to the next head entry too, so that the transfer taken is the one that the head entry has for
the line after the event, is the model's reading of R51 and R83 (log 13, log 14). `s` is the road before
the event and `t` after it. -/
structure LineGoesOn (e : Env) (s t : Road) (l : Fin 4) (sent : Sent) : Prop where
  round    : sent ≠ .poll → PollsNext s t l
  order    : sent = .poll → ∀ o, oldestOrder t l = some o →
    (t.line l).inFlight = some { addr := o.addr, sent := .gateOrder o.dir, ms := 0 } ∧
    (t.line l).pointer = (s.line l).pointer
  working  : sent = .poll → oldestOrder t l = none → ∀ x, (t.line l).transfer = some x →
    (t.line l).inFlight = some { addr := x.addr, sent := .work, ms := 0 } ∧
    (t.line l).pointer = (s.line l).pointer
  noWork   : sent = .poll → oldestOrder t l = none → (t.line l).transfer = none → PollsNext s t l
  resumed  : sent ≠ .work → ∀ x, (s.line l).transfer = some x →
    ((t.link ⟨l, x.addr⟩).state = .lost → (s.link ⟨l, x.addr⟩).state = .lost) →
    (t.line l).transfer = some x
  taken    : sent = .poll → oldestOrder t l = none →
    (∀ x, (s.line l).transfer = some x → (t.link ⟨l, x.addr⟩).state = .lost ∧
      (s.link ⟨l, x.addr⟩).state ≠ .lost) →
    (∃ x, t.offer e l = .take x ∧ (t.line l).transfer = some x ∧ HeadGives e t l x) ∨
      t.offer e l = .wait ∧ (t.line l).transfer = none ∧ HeadWaits t l
  untaken  : sent ≠ .poll ∨ oldestOrder t l ≠ none → (s.line l).transfer = none →
    (t.line l).transfer = none

/-! ### Entries that an event makes -/

/-- The entries that a report calls for: in slot order the posting entry of each newly amended slot whose
handle names a posting, and last the unit entry, for a newly amended slot of a stale handle, any other
slot that disagrees, a handle reported twice, and a first status (R71, R74, R89 to R91). A newly amended
slot calls for its posting's entry also where R71 then keeps the handle in another slot (log 28). -/
def Road.reportCalls (r : Road) (u : UnitId) (slots : List SlotReport) : List Entry :=
  let first := (r.link u).state != .online
  let differing := if first then [] else ((r.dirOf u).zip slots).filter fun x => !x.1.agrees x.2
  let stale : SlotReport → Bool := fun x => match x with
    | .held h _ true => (r.named h).isNone
    | _ => true
  let handles := ((r.dirOf u).zip slots).filterMap fun x => match x.2 with
    | .held h _ _ => some h
    | .empty => none
  (differing.filterMap fun x => match x.2 with
    | .held h _ true => if (r.named h).isSome then some (.posting h) else none
    | _ => none) ++
  (if first || differing.any (fun x => stale x.2) || decide (¬ handles.Nodup) then [.unit u] else [])

/-- The entries that an event of line `l` calls for have gone to the queue in order (R75), and what has
left it since has been worked off. Nothing has left a queue whose head entry has work on another line, or
where the line did not come to look at it (R51, R84). -/
structure Called (e : Env) (s t : Road) (l : Fin 4) (calls : List Entry) : Prop where
  queue : t.queue <:+ calls.foldl joined s.queue
  kept  : ∀ en ∈ calls, en ∈ t.queue ∨ WorkedOff e t en
  whole : s.queue ≠ [] → (s.LeftFor fun u => u.line ≠ l) ∨ oldestOrder t l ≠ none ∨
    (s.line l).transfer ≠ none → t.queue = calls.foldl joined s.queue

/-- The unit entry of a failed transfer of a unit, whose part in the head entry has ended (R83, R87). The
entry is appended or coalesced before the part ends and the head may leave, which is the model's choice
(log 41). -/
structure FailureCalled (s t : Road) (u : UnitId) : Prop where
  queue : t.queue <:+ joined s.queue (.unit u)
  entry : .unit u ∈ t.queue
  whole : (s.LeftFor fun v => v ≠ u) → t.queue = joined s.queue (.unit u) ∧
    ∃ w, t.work = some w ∧ u ∈ w.ended

/-! ### The laws of the device -/

/-- Clock and supply: the blocks work exactly while mains is present and the reset pin is not held;
pass time never passes 2^32-1; the time is valid throughout RUNNING (R182, R183, R187, R190). Two clauses
are the model's choice: the oscillator's place in the second, in milliseconds below 1000 (log 1), and the
check word that reads equal while the blocks work (log 9). -/
def State.ClockLaw (s : State) : Prop :=
  (s.cru.working = true ↔ s.cru.mains = true ∧ s.cru.pinHeld = false)
    ∧ s.cru.passTime ≤ Config.maxPassTime ∧ s.cru.phase < 1000
    ∧ (s.cru.working = true → s.cru.intact = true)
    ∧ (s.part = .running → s.cru.timeValid = true)

/-- Station port: a reply stands exactly while the port is UNREAD, a SETTLE waits exactly while it is
BUSY, the host interval timer runs exactly when R199 says, and the interval setting is 0 or 10 to 3600 s
(R192, R194, R199 to R201). That a stopped port, which has lost its state and its flags, reads as READY with
no flag is the model's choice (log 27). -/
def State.PortLaw (s : State) : Prop :=
  (s.port.state = .unread ↔ s.port.reply.isSome = true)
    ∧ (s.port.state = .busy ↔ s.road.settle.isSome = true)
    ∧ (s.port.timer.isSome = true ↔ s.cru.working = true ∧ s.port.mode = .attended
        ∧ s.port.interval ≠ 0 ∧ s.port.state ≠ .busy)
    ∧ (s.cru.working = false → s.port.state = .ready ∧ s.road.flags = 0)
    ∧ (s.port.interval = 0 ∨ 10 ≤ s.port.interval ∧ s.port.interval ≤ 3600)

/-- The blocks hold no records, and the table is empty (R28, R66, R97, R138, R150, R166, R181). -/
structure Road.Bare (r : Road) : Prop where
  slots    : ∀ i, (r.slot i).posting = none
  reserve  : r.reserve = 0
  queue    : r.queue = []
  settle   : r.settle = none
  sections : ∀ i, r.sec i = none
  gates    : ∀ g, r.gate g = none
  paths    : ∀ p, r.path p = none
  lines    : ∀ l, (r.line l).inFlight = none
  inputs   : ∀ i, (r.input i).state = .unused

/-- The unit, the section and the travel limit the plan gives a gate. -/
def Plan.gatePlace (p : Plan) (g : Fin 16) : Option (UnitId × Fin 8 × Nat) :=
  match p.gateUnit g, p.gateSection g with
  | some (u, t), some i => some (u, i, t)
  | _, _ => none

/-- What a gate record holds of the plan: unit, section and travel limit (R126). -/
def GateRec.planned (z : GateRec) : UnitId × Fin 8 × Nat := (z.unit, z.sec, z.travel)

/-- The records are those of the plan (R114, R126, R138, R152, R178). -/
structure Road.OfPlan (p : Plan) (r : Road) : Prop where
  reserve  : r.reserve = p.pathCount + p.gateCount
  sections : ∀ i, (r.sec i).isSome = (p.sec i).isSome
  gates    : ∀ g, (r.gate g).map GateRec.planned = p.gatePlace g
  paths    : ∀ n, (r.path n).isSome = (p.path n).isSome

/-- In PLANNING the blocks are bare; in RUNNING the plan passes every plan check and the records are
its own (R169, R177, R178, R180). -/
def State.PartLaw (s : State) : Prop :=
  (s.part = .planning → s.road.Bare)
    ∧ (s.part = .running → s.plan.fault = none ∧ s.road.OfPlan s.plan)

/-- Text lines in use: the sum of the line counts of all non-FREE postings (R6). -/
def Road.textLines (r : Road) : Nat :=
  (allSlots.map fun i => ((r.slot i).posting.map fun p => p.text.length).getD 0).sum

/-- Lines in use and free lines make up the pool (R6). -/
def Road.PoolLaw (r : Road) : Prop := r.freeLines + r.textLines = Config.poolLines

/-- STATION postings never pass 256 minus the reserve (R8). -/
def Road.ReserveLaw (r : Road) : Prop :=
  r.countPostings (fun p => p.authority == .station) + r.reserve ≤ Config.capacity

/-- Each path links at most one AUTO posting, each gate at most one FIELD posting, and every non-FREE
AUTO or FIELD posting is linked by exactly one path or gate; such a posting is a CLOSURE with no
expiry, and a FIELD closure has no pin either (R11, R18, R19). -/
structure Road.LinkLaw (r : Road) : Prop where
  path   : ∀ n x h, r.path n = some x → x.link = some h →
    ∃ p, r.named h = some p ∧ p.authority = .auto ∧ p.path = some n.val
  gate   : ∀ g x h, r.gate g = some x → x.link = some h →
    ∃ p, r.named h = some p ∧ p.authority = .field
  once   : ∀ g g' x x' h, r.gate g = some x → r.gate g' = some x' → x.link = some h →
    x'.link = some h → g = g'
  auto   : ∀ i p, (r.slot i).posting = some p → p.authority = .auto →
    ∃ n x, r.path n = some x ∧ x.link = some (r.handleAt i)
  field  : ∀ i p, (r.slot i).posting = some p → p.authority = .field →
    ∃ g x, r.gate g = some x ∧ x.link = some (r.handleAt i)
  own    : ∀ i p, (r.slot i).posting = some p → p.authority ≠ .station →
    p.kind = .closure ∧ p.expiry = none ∧ (p.authority = .field → p.pin = none)

/-- For each path, at most one DANGER posting is PENDING or ACTIVE (R21). -/
def Road.DangerLaw (r : Road) : Prop :=
  ∀ i j p q, (r.slot i).posting = some p → (r.slot j).posting = some q → p.kind = .danger →
    q.kind = .danger → p.path = q.path → p.state ≠ .retiring → q.state ≠ .retiring → i = j

/-- The records that a warm start in RUNNING keeps from the backup domain, and what it sets beside them:
section states with NOTICE and SWEEP timers from zero, but for a NOTICE section whose L is 0, which
enters SHUTTING; standing orders and FIELD links of gates at UNKNOWN; AUTO links and last actions of
paths that wait for their monitors, at the table's danger level. SECTION_CHANGE comes of such a NOTICE
section alone (R116, R118, R139, R167). -/
structure KeptBlocks (s t : State) : Prop where
  sections : ∀ i x y, s.plan.sec i = some x → s.road.sec i = some y →
    y.state ≠ .notice ∨ x.lead ≠ 0 → t.road.sec i = some
      { state := y.state, notice := if y.state = .notice then some 0 else none,
        sweepMin := if y.state = .sweep ∧ x.sweepMin ≠ 0 then some 0 else none,
        sweepOver := if y.state = .sweep then some 0 else none, overdue := false }
  shuts    : ∀ i x y, s.plan.sec i = some x → s.road.sec i = some y → y.state = .notice →
    x.lead = 0 → x.gates ≠ [] → (∀ u ∈ x.approach, s.plan.unit u ≠ none) →
    t.road.sec i = some { state := .shutting, notice := none, sweepMin := none, sweepOver := none,
                          overdue := false } ∧
    hasFlag t.road.flags .sectionChange = true ∧
    ∀ g ∈ x.gates, ∀ z, t.road.gate g = some z → z.standing = .toClose
  quiet    : (∀ i x y, s.plan.sec i = some x → s.road.sec i = some y → y.state ≠ .notice ∨
    x.lead ≠ 0) → t.road.flags = Flag.start.bit
  gates    : ∀ g z, s.road.gate g = some z → ∃ w, t.road.gate g = some w ∧
    w = { sec := z.sec, unit := z.unit, travel := z.travel, pos := .unknown, reported := none,
          key := none, standing := w.standing, phase := .idle, timer := none, link := z.link,
          retried := false } ∧
    ((∀ i x y, s.plan.sec i = some x → g ∈ x.gates → s.road.sec i = some y →
      y.state ≠ .notice ∨ x.lead ≠ 0) → w.standing = z.standing)
  paths    : ∀ n x pl, s.road.path n = some x → s.plan.path n = some pl →
    ∃ y, t.road.path n = some y ∧ y.watch = (if pl.monitor = none then .unwatched else .waiting) ∧
      y.timer = none ∧ y.count = 0 ∧ y.baseline = none ∧ y.link = x.link ∧ y.last = x.last ∧
      (∀ i q, s.road.DangerLaw → (s.road.slot i).posting = some q → q.kind = .danger →
        q.state = .active → q.path = some n.val → y.level = q.detail.getD 0) ∧
      ((∀ i q, (s.road.slot i).posting = some q → q.kind = .danger → q.path = some n.val →
        q.state ≠ .active) → y.level = 0)

/-- No unit's copy slots name the same posting twice (R71). -/
def Road.CopyLaw (r : Road) : Prop := ∀ u, ((r.dirOf u).filterMap CopySlot.handle?).Nodup

/-- A copy slot in state CURRENT names an ACTIVE posting and holds its present version (R70). -/
def Road.CurrentLaw (r : Road) : Prop :=
  ∀ u h v, CopySlot.current h v ∈ r.dirOf u →
    r.namedState h = some .active ∧ r.version h = v

/-- The entries behind the settle marker. -/
def behindMarker (q : List Entry) : List Entry := q.drop ((aheadOfMarker q).length + 1)

/-- The queue holds at most one marker, only while a SETTLE waits, and on each side of it at most one
not-yet-started entry per posting and per unit; the head is started (R74). -/
structure Road.QueueLaw (r : Road) : Prop where
  waits  : Entry.marker ∈ r.queue → r.settle.isSome = true
  single : Entry.marker ∉ behindMarker r.queue
  ahead  : (aheadOfMarker r.queue).tail.Nodup
  behind : (behindMarker r.queue).Nodup

/-- The head entry is started and has work left: a slot to fetch, or an affected unit to finish. An entry
without any leaves in the event, and a settle marker that becomes the head too (R74, R77, R80, R84, R85,
R93). -/
def Road.HeadLaw (r : Road) : Prop :=
  ∀ en q, r.queue = en :: q → en ≠ .marker ∧ ∃ w, r.work = some w ∧
    (w.phase = .fetch → ∃ it ∈ w.fetch, it.ended = false) ∧
    (w.phase = .reconcile → ∃ u ∈ w.affected, u ∉ w.ended)

/-- The lines work without a break: every line with a planned unit has an exchange in flight, to a planned
unit, and no other line has one. A POLL goes to the address of the poll pointer, a GATE_ORDER to an
ONLINE unit that has an order in the list, any other work exchange to the unit of the transfer in
progress; and that unit is ONLINE, as only a planned one can be (R44, R47, R50, R51, R56). -/
structure Road.LineLaw (r : Road) : Prop where
  busy     : ∀ l, (r.line l).inFlight ≠ none ↔ ∃ a, (r.link ⟨l, a⟩).kind ≠ none
  planned  : ∀ l ex, (r.line l).inFlight = some ex → (r.link ⟨l, ex.addr⟩).kind ≠ none
  polls    : ∀ l ex, (r.line l).inFlight = some ex → ex.sent = .poll →
    (r.line l).pointer = some ex.addr
  orders   : ∀ l ex d, (r.line l).inFlight = some ex → ex.sent = .gateOrder d →
    (r.link ⟨l, ex.addr⟩).state = .online ∧ ∃ o ∈ (r.line l).orders, o.addr = ex.addr
  works    : ∀ l ex, (r.line l).inFlight = some ex → ex.sent = .work →
    ∃ x, (r.line l).transfer = some x ∧ x.addr = ex.addr
  transfer : ∀ l x, (r.line l).transfer = some x → (r.link ⟨l, x.addr⟩).state = .online
  online   : ∀ u, (r.link u).state = .online → (r.link u).kind ≠ none

/-- In RUNNING, with the blocks working, the links are those of the plan, so that every line with a
planned unit always has an exchange in flight (R46, R50, R67, R68). -/
def State.LineLaw (s : State) : Prop :=
  (s.part = .running → s.cru.working = true →
    ∀ u, (s.road.link u).kind = (s.plan.unit u).map PlanUnit.kind) ∧ s.road.LineLaw

/-- The standing order of a section in a state (R114). -/
def SecState.standing : SecState → Order
  | .isOpen | .notice | .opening => .toOpen
  | .shutting | .sweep | .closed | .clearable => .toClose

/-- Every entry gate of a section holds the section's standing order (R114, R123). -/
def Road.StandingLaw (e : Env) (r : Road) : Prop :=
  ∀ i x g z, r.sec i = some x → g ∈ sectionGates e i → r.gate g = some z →
    z.standing = x.state.standing

/-- Sections stand as their coverage asks: no OPEN, CLEARABLE or OPENING section is covered, every
NOTICE and CLOSED section is, and none stands in NOTICE that is covered at once (R115 to R117, R122,
R123, R125). -/
def Road.CoverLaw (e : Env) (r : Road) : Prop :=
  ∀ i,
    ((r.secState i = some .isOpen ∨ r.secState i = some .clearable ∨ r.secState i = some .opening) →
      r.covered e i = false) ∧
    (r.secState i = some .notice → r.covered e i = true ∧ r.coveredAtOnce e i = false) ∧
    (r.secState i = some .closed → r.covered e i = true)

/-- A SHUTTING section has an entry gate that is not CLOSED, and an OPENING one a gate that is not OPEN:
the section tests are made in every event that moves a gate (R120, R125, R127, R130, R132). -/
def Road.GateLaw (e : Env) (r : Road) : Prop :=
  ∀ i,
    (r.secState i = some .shutting →
      ∃ g ∈ sectionGates e i, ∀ z, r.gate g = some z → z.pos ≠ .closed) ∧
    (r.secState i = some .opening →
      ∃ g ∈ sectionGates e i, ∀ z, r.gate g = some z → z.pos ≠ .isOpen)

/-- Every path's record holds the danger level of the table (R153, R167). -/
def Road.LevelLaw (r : Road) : Prop := ∀ p x, r.path p = some x → x.level = r.tableLevel p

/-- A posting stands ACTIVE in a slot, of a generation, with a pin at or after a time. -/
def Pinned (r : Road) (i : Fin 256) (g : BitVec 4) (t : Nat) : Prop :=
  (r.slot i).gen = g ∧ ∃ p t', (r.slot i).posting = some p ∧ p.state = .active ∧
    p.pin = some t' ∧ t ≤ t'

/-- Every law together. -/
structure Sound (s : State) : Prop where
  clock    : s.ClockLaw
  port     : s.PortLaw
  part     : s.PartLaw
  pool     : s.road.PoolLaw
  reserve  : s.road.ReserveLaw
  links    : s.road.LinkLaw
  danger   : s.road.DangerLaw
  copies   : s.road.CopyLaw
  current  : s.road.CurrentLaw
  queue    : s.road.QueueLaw
  head     : s.road.HeadLaw
  lines    : s.LineLaw
  standing : s.road.StandingLaw s.env
  cover    : s.road.CoverLaw s.env
  gates    : s.road.GateLaw s.env
  levels   : s.road.LevelLaw

end Sys2Proof.Machine
end

