-- ==== Sys2Proof/Certificates/Slice0/Obligations.lean ====
section
/-! DEFINITION. The statements for the provers. -/

section

open Sys2Proof Sys2Proof.Machine

/-! ### The step -/

/-- A step with a command at the front of the queue is that command's effect on the state with the
queue's rest. -/
def Obligations.StepRunsFrontCommand : Prop :=
  ∀ (c : Instr) (rest : List Instr) (s : State), s.pending = c :: rest →
    Machine.step s = exec c { s with pending := rest }

/-- A step with no command waiting is one millisecond of the oscillator (the model's choice, log 1): the
phase goes on, each elapsed timer that runs grows by one while the blocks work and stands while they are
stopped (R186, R187), and table, directory, queue, links, occupancies, flags, pass time, plan, part state
and pins stay. The timers are the section timers, the travel, high, window and settle timers, the host
interval timer, and a line's response timer up to 50 ms (log 4). A full second puts its pass-time second
in the queue, and a timer that reaches its limit puts its own command there. -/
def Obligations.IdleStepIsOneMillisecond : Prop :=
  ∀ s : State, s.pending = [] → ∃ t, Machine.step s = .next t ∧
    t.cru = { s.cru with phase := if s.cru.phase + 1 < 1000 then s.cru.phase + 1 else 0 } ∧
    t.plan = s.plan ∧ t.part = s.part ∧ t.pins = s.pins ∧ t.road.slots = s.road.slots ∧
    t.road.freeLines = s.road.freeLines ∧ t.road.reserve = s.road.reserve ∧
    t.road.dir = s.road.dir ∧ t.road.awaiting = s.road.awaiting ∧
    t.road.queue = s.road.queue ∧ t.road.work = s.road.work ∧
    t.road.links = s.road.links ∧ t.road.occ = s.road.occ ∧ t.road.flags = s.road.flags ∧
    (Instr.passTimeSecond ∈ t.pending ↔ 1000 ≤ s.cru.phase + 1) ∧
    (s.cru.working = false → t.road = s.road ∧ t.port = s.port) ∧
    (s.cru.working = true →
      (∀ i, t.road.sec i = (s.road.sec i).map fun x => { x with
        notice := x.notice.map (· + 1), sweepMin := x.sweepMin.map (· + 1),
        sweepOver := x.sweepOver.map (· + 1) }) ∧
      (∀ g, t.road.gate g = (s.road.gate g).map fun x => { x with timer := x.timer.map (· + 1) }) ∧
      (∀ i, t.road.input i =
        { s.road.input i with timer := (s.road.input i).timer.map (· + 1) }) ∧
      (∀ p, t.road.path p = (s.road.path p).map fun x => { x with timer := x.timer.map (· + 1) }) ∧
      t.road.settle = (s.road.settle.map fun st => { st with ms := st.ms + 1 }) ∧
      t.port = { s.port with timer := s.port.timer.map (· + 1) } ∧
      (∀ l, (t.road.line l).pointer = (s.road.line l).pointer ∧
        (t.road.line l).transfer = (s.road.line l).transfer ∧
        (t.road.line l).orders = (s.road.line l).orders) ∧
      (∀ n, s.port.timer = some n → n + 1 = s.port.interval * 1000 →
        Instr.hostIntervalRunOut ∈ t.pending) ∧
      (∀ i x y, s.plan.sec i = some x → s.road.sec i = some y →
        (∀ n, y.notice = some n →
          (n + 1 = x.lead * 1000 → Instr.noticeTimerReachesL i ∈ t.pending) ∧
          (x.wait ≠ 0 → n + 1 = (x.lead + x.wait) * 1000 →
            Instr.noticeWaitRunOut i ∈ t.pending)) ∧
        (∀ n, y.sweepMin = some n → n + 1 = x.sweepMin * 1000 →
          Instr.sweepMinimumRun i ∈ t.pending) ∧
        (∀ n, y.sweepOver = some n → n + 1 = x.sweepOver * 1000 →
          Instr.sweepOverdueRun i ∈ t.pending)) ∧
      (∀ g x n, s.road.gate g = some x → x.timer = some n → n + 1 = x.travel * 1000 →
        Instr.travelLimitReached g ∈ t.pending) ∧
      (∀ i n, (s.road.input i).timer = some n → n + 1 = (s.plan.detector i).stuck * 1000 →
        Instr.stuckLimitReached i ∈ t.pending) ∧
      (∀ p x y n, s.plan.path p = some x → s.road.path p = some y → y.timer = some n →
        n + 1 = x.window * 1000 → Instr.windowRunOut p ∈ t.pending) ∧
      (∀ st, s.road.settle = some st → st.ms + 1 = st.timeout * 1000 →
        Instr.settleTimeout ∈ t.pending) ∧
      (∀ l a sent ms, (s.road.line l).inFlight = some { addr := a, sent := sent, ms := ms } →
        (t.road.line l).inFlight = some { addr := a, sent := sent, ms := min (ms + 1) 50 } ∧
        (ms = 49 → Instr.fieldResponseTimeout l ∈ t.pending)))

/-- Every command completes: whatever the state, it gives a next state, and the waiting commands
stay. -/
def Obligations.EveryCommandCompletes : Prop :=
  ∀ (c : Instr) (s : State), ∃ t, exec c s = .next t ∧ t.pending = s.pending

/-! ### Cold start -/

/-- The table after a cold start (R29), whatever stood before it; the first handle of a slot is then
generation 1 at version 1. -/
def Obligations.ColdStartTable : Prop :=
  ∀ s : State, (∀ i, s.coldStart.road.slot i = { gen := 0, version := 0, posting := none }) ∧
    s.coldStart.road.freeLines = 512 ∧ s.coldStart.road.reserve = 0 ∧
    s.coldStart.road.countPostings (fun p => p.authority != .station) = 0 ∧
    s.coldStart.part = .planning ∧ s.coldStart.cru.timeValid = false ∧
    ∀ (i : Fin 256) (p : Posting), ((s.coldStart.road.occupy i p).handleAt i) = ⟨i, 1⟩ ∧
      ((s.coldStart.road.occupy i p).slot i).version = 1

/-- Reset is a cold start of a part with mains, and every other block holds its cold-start values
(R66, R97, R138, R150, R166, R181, R191, R201). The pin levels, the phase and the supply are the
model's choice (log 10). -/
def Obligations.ResetValues : Prop :=
  State.reset = { State.coldStart State.reset with port := State.reset.port } ∧
    State.reset.road.flags = Flag.start.bit ∧ State.reset.cru.passTime = 0 ∧
    State.reset.cru.startCause = .cold ∧ State.reset.plan = Plan.empty ∧
    State.reset.road.queue = [] ∧ State.reset.road.settle = none ∧
    (∀ u, State.reset.road.dirOf u = [] ∧ State.reset.road.awaits u = false ∧
      State.reset.road.link u = { kind := none, state := .unplanned, misses := 0, last := none }) ∧
    (∀ l, State.reset.road.line l =
      { pointer := none, inFlight := none, transfer := none, orders := [] }) ∧
    (∀ i, State.reset.road.sec i = none ∧ State.reset.road.occOf i = none) ∧
    (∀ g, State.reset.road.gate g = none) ∧ (∀ p, State.reset.road.path p = none) ∧
    (∀ i, (State.reset.road.input i).state = .unused ∧ (State.reset.road.input i).timer = none) ∧
    State.reset.port.state = .ready ∧ State.reset.port.reply = none ∧
    State.reset.port.enables = 0 ∧ State.reset.port.master = false ∧
    State.reset.port.mode = .attended ∧ State.reset.port.interval = 0 ∧
    State.reset.port.timer = none ∧ State.reset.pending = []

/-- Every law of the device holds at reset, and with the clock law and the port law the clauses in them that
are the model's choice (log 1, log 9, log 27). -/
def Obligations.ResetIsSound : Prop := Sound State.reset

/-! ### The laws, kept by every step -/

/-- Every step keeps the clock law, the blocks working exactly while mains is present and the pin is
released, pass time within 2^32-1, the time valid throughout RUNNING (R182, R183); and the port law,
UNREAD exactly while a reply stands, BUSY exactly while a SETTLE waits, the host interval timer running
exactly when R199 says, the interval setting 0 or 10 to 3600 s (R192, R194, R199 to R201). Three clauses of
these laws are the model's choice: while the blocks are stopped the port reads as READY with no flag, of
which the spec says only that both are lost (log 27); the oscillator's place in the second is counted in
milliseconds and stays below 1000 (log 1); and the check word of the backup domain reads equal while the
blocks work (log 9). -/
def Obligations.ClockAndPortLawsKept : Prop :=
  ∀ s t : State, Machine.step s = .next t →
    (s.ClockLaw → t.ClockLaw) ∧ (s.PortLaw → t.PortLaw)

/-- Every step keeps the part law: bare blocks in PLANNING, and in RUNNING a plan that passes every
plan check, with the records that plan calls for (R169, R177, R178, R180). -/
def Obligations.PartLawKept : Prop :=
  ∀ s t : State, s.PartLaw → s.PortLaw → Machine.step s = .next t → t.PartLaw

/-- Every step keeps the table's accounts: free lines and the lines of all postings make up 512 (R6,
R7), and STATION postings never pass 256 minus the planned paths and gates (R8). -/
def Obligations.PoolAndReserveLawsKept : Prop :=
  ∀ s t : State, s.PartLaw → s.PortLaw → Machine.step s = .next t →
    (s.road.PoolLaw → t.road.PoolLaw) ∧ (s.road.ReserveLaw → t.road.ReserveLaw)

/-- Every step keeps the law of the links, at most one AUTO posting per path and one FIELD posting per
gate, each such posting linked by exactly one (R18, R19), and with it the law of danger postings, at most
one PENDING or ACTIVE for each path (R21). -/
def Obligations.LinkAndDangerLawsKept : Prop :=
  ∀ s t : State, s.PartLaw → s.PortLaw → s.road.LinkLaw → Machine.step s = .next t →
    t.road.LinkLaw ∧ (s.road.DangerLaw → t.road.DangerLaw)

/-- Every step keeps the laws of the directory: no unit's slots name one posting twice, and a CURRENT
slot names an ACTIVE posting at its present version (R70, R71). -/
def Obligations.DirectoryLawsKept : Prop :=
  ∀ s t : State, s.PartLaw → s.PortLaw → s.road.CopyLaw → s.road.CurrentLaw →
    Machine.step s = .next t → t.road.CopyLaw ∧ t.road.CurrentLaw

/-- Every step keeps the queue law: one settle marker at most, and on each side of it at most one
not-yet-started entry per posting and per unit (R74, R96); the head law: the head entry is started
and has work left, and no marker stands at the head (R74, R77, R80, R84, R85, R93); and the line law:
in RUNNING, with the blocks working, every line with a planned unit has an exchange in flight to a
planned unit, a POLL to the address of the poll pointer, a GATE_ORDER to an ONLINE unit with an order, or
the transfer's to its unit, which is ONLINE (R44, R46, R47, R50, R51, R56). -/
def Obligations.QueueAndLineLawsKept : Prop :=
  ∀ s t : State, s.PartLaw → s.PortLaw → Machine.step s = .next t →
    (s.road.QueueLaw → t.road.QueueLaw) ∧ (s.road.HeadLaw → t.road.HeadLaw) ∧
    (s.LineLaw → t.LineLaw)

/-- Every step keeps the gates' standing orders with their sections' states (R114, R123). -/
def Obligations.StandingLawKept : Prop :=
  ∀ s t : State, s.PartLaw → s.PortLaw → s.road.StandingLaw s.env → Machine.step s = .next t →
    t.road.StandingLaw t.env

/-- A section leaves SWEEP only when its occupancy is KNOWN zero, but for a cold start (R122). -/
def Obligations.SweepLeftOnlyAtZero : Prop :=
  ∀ (s t : State) (i : Fin 8), s.PartLaw → s.PortLaw → s.road.secState i = some .sweep →
    Machine.step s = .next t → t.road.secState i = some .sweep ∨
      t.road.occOf i = some (.known 0) ∨ t.cru.timeValid = false

/-- A section enters OPENING only from CLEARABLE, in the event of a RELEASE_SECTION (R114, R123,
R124): no section reopens by itself. -/
def Obligations.OpeningOnlyByRelease : Prop :=
  ∀ (s t : State) (i : Fin 8), s.PartLaw → s.PortLaw → Machine.step s = .next t →
    t.road.secState i = some .opening → s.road.secState i ≠ some .opening →
    s.road.secState i = some .clearable ∧
      ∃ body begun, s.pending.head? = some (.releaseSection ⟨body, begun⟩)

/-- An ACTIVE posting whose pin lies after pass time stays ACTIVE, in its slot and generation, with a
pin no earlier; a cold start is the one exception (R12). -/
def Obligations.PinnedPostingStays : Prop :=
  ∀ (s t : State) (i : Fin 256) (g : BitVec 4) (pin : Nat), s.PartLaw → s.PortLaw →
    s.road.LinkLaw → Pinned s.road i g pin → Machine.step s = .next t → t.cru.passTime < pin →
    Pinned t.road i g pin ∨ t.cru.timeValid = false

/-- The bytes of every well-formed request, shifted in as one transaction, spell that request again,
with its code and body whatever state of the port the transaction began in (R193, R202). -/
def Obligations.DecodeOfEncodeRequest : Prop :=
  ∀ (c : Instr) (bytes : List Byte), wellFormed c = true → encodeRequest c = some bytes →
    (∃ begun, decodeTransaction bytes begun = some c) ∧
    ∀ begun, (decodeTransaction bytes begun).bind requestParts = requestParts c

/-! ### The station port -/

/-- A request on a BUSY or UNREAD port, but for an ABORT on a BUSY one, leaves no trace: only bytes go
out, the status byte of the state the transaction began in and then fillers. That state is the present
one, but BUSY for a transaction that began before the SETTLE's end made the port UNREAD (R192, R193,
R195, R202). A stopped port takes nothing, and every byte reads FFh (R187, R190, R201, R202). How the
model tells that the SETTLE has ended under the transaction is log 5. -/
def Obligations.UntakenTransactions : Prop :=
  ∀ (s : State) (begun : Bool) (shown : PortState),
    shown = (if s.port.state = .unread ∧ s.port.overtaken = true ∧ begun = true then .busy
      else s.port.state) →
    (∀ (code : Byte) (body : List Byte),
      (s.cru.working = true → s.port.state ≠ .ready → ¬ (s.port.state = .busy ∧ code = 0x39) →
        exec (requestOf code body begun) s = .next { s with port := { s.port with
          out := shown.status :: List.replicate (body.length + 3) 0x00, overtaken := false } }) ∧
      (s.cru.working = false →
        exec (requestOf code body begun) s = .next { s with port := { s.port with
          out := List.replicate (body.length + 4) 0xFF, overtaken := false } })) ∧
    (∀ bytes, s.port.state ≠ .ready → s.cru.working = true → bytes ≠ [] →
      exec (.requestFrameError ⟨bytes, begun⟩) s = .next { s with port := { s.port with
        out := shown.status :: List.replicate (bytes.length - 1) 0x00, overtaken := false } }) ∧
    (s.cru.working = false →
      (∀ n, exec (.replyRead ⟨n, begun⟩) s = .next { s with port := { s.port with
        out := List.replicate n 0xFF, overtaken := false } }) ∧
      (∀ bytes, exec (.requestFrameError ⟨bytes, begun⟩) s = .next { s with port := { s.port with
        out := List.replicate bytes.length 0xFF, overtaken := false } }))

/-- A request that the part state does not admit is refused BAD_STATE ahead of every other check, and a
body with a fault of form BAD_REQUEST after that check and ahead of every other; nothing else changes
(R169, R203, chapter 1.7). -/
def Obligations.PartStateThenFormRefused : Prop :=
  ∀ (c : Instr) (code : Byte) (body : List Byte) (s : State), Taking s →
    requestParts c = some (code, body) →
    (inRunning c = true ∧ s.part = .planning ∨ inPlanning c = true ∧ s.part = .running →
      exec c s = .next (s.replied code body (plain .badState))) ∧
    (goodForm c = false → (inRunning c = true → s.part = .running) →
      (inPlanning c = true → s.part = .planning) →
      exec c s = .next (s.replied code body (plain .badRequest)))

/-- A malformed frame is answered FRAME_ERROR, a frame whose code names no request BAD_REQUEST, and
nothing is executed (R193, R203). -/
def Obligations.BadFramesAnswered : Prop :=
  ∀ (s : State) (begun : Bool), Taking s →
    (∀ bytes, exec (.requestFrameError ⟨bytes, begun⟩) s = .next { s with port := { s.port with
      state := .unread, reply := some (plain .frameError), buffer := bytes.take 303,
      out := readyBytes bytes.length,
      timer := restartedTimer s.port.mode s.port.interval, overtaken := false } }) ∧
    (∀ code body, exec (.unknownRequestCode code ⟨body, begun⟩) s =
      .next (s.replied code body (plain .badRequest)))

/-- Every reply frame is its result code, a length, the body and a sum byte that makes it add up to 0
modulo 256. A reply read on an UNREAD port sends the status byte and the frame, and the reply counts as
read once its sum byte is out; released earlier it stays; on a READY or BUSY port fillers go out and
nothing changes, and so too when the read began BUSY and the SETTLE's end has made the port UNREAD: its
reply stays (R192, R194, R199, R202; log 5). What goes out after the sum byte is free (log 6). -/
def Obligations.ReplyReads : Prop :=
  (∀ rep : Reply, byteSum rep.frame = 0 ∧ rep.frame.length = rep.body.bytes.length + 4 ∧
    rep.frame.take (rep.body.bytes.length + 3) =
      BitVec.ofNat 8 rep.code.code :: be16 rep.body.bytes.length ++ rep.body.bytes) ∧
  ∀ (s : State) (n : Nat) (begun : Bool), s.cru.working = true →
    (∀ rep, s.port.state = .unread → s.port.reply = some rep →
      ¬ (s.port.overtaken = true ∧ begun = true) →
      (n ≤ rep.frame.length → exec (.replyRead ⟨n, begun⟩) s = .next { s with port := { s.port with
        out := (0x03 :: rep.frame).take n, overtaken := false } }) ∧
      (rep.frame.length < n → ∃ t, exec (.replyRead ⟨n, begun⟩) s = .next t ∧
        t.port.state = .ready ∧ t.port.reply = none ∧ t.port.overtaken = false ∧
        t.port.timer = restartedTimer s.port.mode s.port.interval ∧
        t.port.out.length = n ∧ t.port.out.take (rep.frame.length + 1) = 0x03 :: rep.frame ∧
        t.port.enables = s.port.enables ∧ t.port.master = s.port.master ∧
        t.port.mode = s.port.mode ∧ t.port.interval = s.port.interval ∧
        t.port.buffer = s.port.buffer ∧ t.cru = s.cru ∧ t.plan = s.plan ∧ t.part = s.part ∧
        t.pins = s.pins ∧ t.pending = s.pending ∧
        t.road = { s.road with fresh := t.road.fresh })) ∧
    (s.port.state ≠ .unread → 1 ≤ n → exec (.replyRead ⟨n, begun⟩) s = .next { s with port :=
      { s.port with out := s.port.state.status :: List.replicate (n - 1) 0x00,
                    overtaken := false } }) ∧
    (s.port.state = .unread → s.port.overtaken = true → begun = true → 1 ≤ n →
      exec (.replyRead ⟨n, begun⟩) s = .next { s with port :=
        { s.port with out := 0x02 :: List.replicate (n - 1) 0x00, overtaken := false } })

/-- TAKE_ATTENTION takes no body, in PLANNING and in RUNNING: the reply is DONE and carries the flags
then set, enabled or not, with the mode; every flag is cleared, the attention line is released, and
nothing else changes. A flag that is set after it is in the next reply (R198). -/
def Obligations.TakeAttention : Prop :=
  ∀ (s : State) (begun : Bool), Taking s → ∃ t, exec (.takeAttention ⟨[], begun⟩) s = .next t ∧
    t = { (s.replied 0x40 [] { code := .done, body := .attention s.road.flags s.port.mode }) with
      road := { s.road with flags := 0 } } ∧
    attentionLine t = false ∧
    ∀ (f : Flag) (u : State), Taking u → u.road = t.road.raise f →
      ∃ v, exec (.takeAttention ⟨[], begun⟩) u = .next v ∧
        v.port.reply = some { code := .done, body := .attention f.bit u.port.mode }

/-- SET_ENABLES, in PLANNING and in RUNNING: enables and master enable are replaced whole, the flags
stay, the line follows at once from the flags set at that moment, and the reply is DONE with the flags
and the line. A flag outside the 14 or a master value other than on and off is refused (R197). On is
coded 00h and off 01h, as the model reads R203 (log 15). -/
def Obligations.SetEnables : Prop :=
  ∀ (s : State) (set : BitVec 14) (on begun : Bool), Taking s →
    (∃ t, exec (.setEnables ⟨be16 set.toNat ++ [if on then 0x00 else 0x01], begun⟩) s = .next t ∧
      t = { s with port := { (s.port.answered 0x41 (be16 set.toNat ++ [if on then 0x00 else 0x01])
        { code := .done, body := .enables s.road.flags (on && (s.road.flags &&& set) != 0) }) with
          enables := set, master := on } } ∧
      attentionLine t = (on && (s.road.flags &&& set) != 0)) ∧
    (∀ hi lo m : Byte, 64 ≤ hi.toNat ∨ 2 ≤ m.toNat →
      exec (.setEnables ⟨[hi, lo, m], begun⟩) s = .next (s.replied 0x41 [hi, lo, m] (plain .badRequest)))

/-- ATTEND: the mode becomes ATTENDED, the setting is replaced, the host interval timer restarts at
zero or stays stopped, and the reply carries the mode before; a setting of 1..9 or above 3600 is
refused. UNATTEND: NOT_CLEAR with the enabled flags that stand, then BAD_STATE in UNATTENDED; taken,
the mode becomes UNATTENDED, the timer stops, the setting stays, and every SILENT path records an AUTO
action of cause SILENT; no STATION posting changes but by the freeing of a RETIRING one (R14, R162,
R200). -/
def Obligations.AttendAndUnattend : Prop :=
  ∀ (s : State) (begun : Bool), Taking s →
    (∀ n, n = 0 ∨ 10 ≤ n ∧ n ≤ 3600 → exec (.attend ⟨be16 n, begun⟩) s = .next { s with port :=
      { (s.port.answered 0x42 (be16 n) { code := .done, body := .mode s.port.mode }) with
        mode := .attended, interval := n, timer := if n = 0 then none else some 0 } }) ∧
    (∀ n, 1 ≤ n ∧ n ≤ 9 ∨ 3600 < n ∧ n < 65536 → exec (.attend ⟨be16 n, begun⟩) s =
      .next (s.replied 0x42 (be16 n) (plain .badRequest))) ∧
    (s.road.flags &&& s.port.enables ≠ 0 → exec (.unattend ⟨[], begun⟩) s = .next (s.replied 0x43 []
      { code := .notClear, body := .flags (s.road.flags &&& s.port.enables) })) ∧
    (s.road.flags &&& s.port.enables = 0 → s.port.mode = .unattended →
      exec (.unattend ⟨[], begun⟩) s = .next (s.replied 0x43 [] (plain .badState))) ∧
    (s.road.flags &&& s.port.enables = 0 → s.port.mode = .attended →
      ∃ t, exec (.unattend ⟨[], begun⟩) s = .next t ∧ t.port = { (s.port.answered 0x43 [] (plain .done)) with
          mode := .unattended, timer := none } ∧
        t.plan = s.plan ∧ t.part = s.part ∧ t.cru = s.cru ∧ t.pins = s.pins ∧
        t.pending = s.pending ∧
        (∀ (p : Fin 24) (x : PathRec), s.road.path p = some x → ∃ y, t.road.path p = some y ∧
          y.watch = x.watch ∧ y.level = x.level ∧
          y.last = if x.watch = .silent then some (.silent, s.cru.passTime) else x.last) ∧
        (s.road.LinkLaw → ∀ i, SlotKept s.road t.road i))

/-- The host interval timer reaches its setting: UNATTENDED, HOST_SILENT, the timer stops, and every
SILENT path records an AUTO action of cause SILENT; while the timer is stopped, or stands below its
setting because a request or a reply read has restarted it, nothing happens. No STATION posting changes
but by the freeing of a RETIRING one (R14, R162, R199). -/
def Obligations.HostSilence : Prop :=
  ∀ s : State,
    (∀ n, s.cru.working = true → s.port.timer = some n → s.port.interval * 1000 ≤ n →
      ∃ t, exec .hostIntervalRunOut s = .next t ∧
        t.port = { s.port with mode := .unattended, timer := none } ∧
        hasFlag t.road.flags .hostSilent = true ∧
        (∀ f, hasFlag s.road.flags f = true → hasFlag t.road.flags f = true) ∧
        t.plan = s.plan ∧ t.part = s.part ∧ t.cru = s.cru ∧ t.pins = s.pins ∧
        t.pending = s.pending ∧
        (∀ (p : Fin 24) (x : PathRec), s.road.path p = some x → ∃ y, t.road.path p = some y ∧
          y.watch = x.watch ∧ y.level = x.level ∧
          y.last = if x.watch = .silent then some (.silent, s.cru.passTime) else x.last) ∧
        (s.road.LinkLaw → ∀ i, SlotKept s.road t.road i)) ∧
    (s.cru.working = false ∨ s.port.timer = none ∨
        (∃ n, s.port.timer = some n ∧ n < s.port.interval * 1000) →
      exec .hostIntervalRunOut s = .next s)

/-- READ_TIME takes no body, in PLANNING and in RUNNING: the reply is DONE and carries pass time, the
time-valid flag and the start cause of the last start; no state changes but the port's own (R185). -/
def Obligations.ReadTime : Prop :=
  ∀ (s : State) (begun : Bool), Taking s → exec (.readTime ⟨[], begun⟩) s = .next (s.replied 0x49 []
    { code := .done, body := .time s.cru.passTime s.cru.timeValid s.cru.startCause })

/-! ### Clock, supply and starts -/

/-- SET_TIME: pass time becomes the value given and the time is valid; the reply is DONE with both as
they stood. In PLANNING nothing else changes. In RUNNING the event is a pass-time event: every PENDING
posting whose start has passed is ACTIVE, every ACTIVE one whose expiry and pin have passed is RETIRING
with cause EXPIRED or freed, with copies marked, entries appended in slot order and POSTING_EXPIRED set,
RETIRING ones are tested for freeing, and every other one but an AUTO closure stays as it stood (R10 to
R14, R17, R184). That on an empty queue an entry with no affected unit leaves ahead of the next slot's is
the model's reading (log 24). Every value of four bytes is good. -/
def Obligations.SetTime : Prop :=
  ∀ (s : State) (n : Nat) (begun : Bool), Taking s → n ≤ 4294967295 →
    ∃ t, exec (.setTime ⟨be32 n, begun⟩) s = .next t ∧
      t.cru = { s.cru with passTime := n, timeValid := true } ∧
      t.plan = s.plan ∧ t.part = s.part ∧ t.pins = s.pins ∧ t.pending = s.pending ∧
      t.port = s.port.answered 0x48 (be32 n)
        { code := .done, body := .timeBefore s.cru.passTime s.cru.timeValid } ∧
      (s.part = .planning → t.road = s.road) ∧
      (s.part = .running → s.road.LinkLaw → s.road.settle = none →
        UpToDate { s.env with now := n } s.road t.road ∧
        ∀ i p, (t.road.slot i).posting = some p →
          ¬ (p.state = .pending ∧ p.start.all (· ≤ n) = true) ∧
          ¬ (p.state = .active ∧ p.expiry.any (· ≤ n) = true ∧ p.pin.all (· ≤ n) = true))

/-- A pass-time second: pass time advances by one and stands at 2^32-1, with mains and without it, in
PLANNING and in RUNNING. While the blocks are stopped, and in PLANNING, it reaches no other block; in
RUNNING it brings every posting up to date as SET_TIME does, and leaves the others (R10 to R14, R17,
R182; log 24). -/
def Obligations.PassTimeSecond : Prop :=
  ∀ s : State, ∃ t, exec .passTimeSecond s = .next t ∧
    t.cru = { s.cru with
      passTime := min (s.cru.passTime + 1) 4294967295 } ∧
    t.plan = s.plan ∧ t.part = s.part ∧ t.pins = s.pins ∧ t.pending = s.pending ∧
    (s.cru.working = false ∨ s.part = .planning → t.road = s.road ∧ t.port = s.port) ∧
    (s.cru.working = true → s.part = .running → s.road.LinkLaw →
      UpToDate { s.env with now := t.cru.passTime } s.road t.road ∧
      ∀ i p, (t.road.slot i).posting = some p →
        ¬ (p.state = .pending ∧ p.start.all (· ≤ t.cru.passTime) = true) ∧
        ¬ (p.state = .active ∧ p.expiry.any (· ≤ t.cru.passTime) = true ∧
          p.pin.all (· ≤ t.cru.passTime) = true))

/-- Mains loss, and the reset pin asserted while mains is present, stop the blocks in one event: plan,
table, section states, standing orders, links, last actions, enables, mode and interval setting stay;
queue, SETTLE, directory, exchanges, transfers, gate orders, occupancies, flags, reply, request buffer
and host interval timer are lost (R68, R98, R139, R151, R167, R187, R188, R190, R201). What a lost item
reads as while stopped is the model's choice (log 27). -/
def Obligations.StopKeepsTheBackupDomain : Prop :=
  ∀ s : State, s.cru.working = true → s.cru.mains = true →
    ∃ t v, exec .mainsLoss s = .next t ∧ exec .resetPinAsserted s = .next v ∧
      t.cru = { s.cru with mains := false, mainsLost := true, working := false } ∧
      v.cru = { s.cru with pinHeld := true, working := false } ∧
      ∀ u, u = t ∨ u = v →
        u.plan = s.plan ∧ u.part = s.part ∧ u.pins = s.pins ∧ u.pending = s.pending ∧
        u.road.slots = s.road.slots ∧ u.road.freeLines = s.road.freeLines ∧
        u.road.reserve = s.road.reserve ∧
        (∀ i, u.road.secState i = s.road.secState i) ∧
        (∀ g, (u.road.gate g).map (fun x => (x.standing, x.link)) =
          (s.road.gate g).map fun x => (x.standing, x.link)) ∧
        (∀ p, (u.road.path p).map (fun x => (x.link, x.last)) =
          (s.road.path p).map fun x => (x.link, x.last)) ∧
        u.port.enables = s.port.enables ∧ u.port.master = s.port.master ∧
        u.port.mode = s.port.mode ∧ u.port.interval = s.port.interval ∧
        u.road.queue = [] ∧ u.road.settle = none ∧ (∀ w, u.road.dirOf w = []) ∧
        (∀ l, (u.road.line l).inFlight = none ∧ (u.road.line l).transfer = none ∧
          (u.road.line l).orders = []) ∧
        (∀ i, u.road.occOf i = none) ∧ u.road.flags = 0 ∧
        u.port.state = .ready ∧ u.port.reply = none ∧ u.port.buffer = [] ∧ u.port.timer = none

/-- Mains return with the pin released, and the pin released with mains present, start the blocks: a
warm start of the cause R189 and R190 give when the check word is good, keeping the backup domain, and
a cold start otherwise (R30, R68, R98, R139, R151, R167, R189, R190, R191, R201). START is set. In RUNNING
a warm start makes links, copy slots, lines, inputs and occupancies anew and keeps section states,
standing orders, FIELD and AUTO links and last actions; in PLANNING the blocks hold no records. -/
def Obligations.StartsWarmOrCold : Prop :=
  ∀ (s : State) (c : Instr) (cause : StartCause), s.cru.working = false →
    (c = .mainsReturn ∧ s.cru.mains = false ∧ s.cru.pinHeld = false ∧ cause = .warmMain ∨
      c = .resetPinReleased ∧ s.cru.mains = true ∧
        cause = (if s.cru.mainsLost then .warmMain else .warmPin)) →
    ∃ t, exec c s = .next t ∧ t.cru.working = true ∧ t.cru.mains = true ∧ t.cru.pinHeld = false ∧
      hasFlag t.road.flags .start = true ∧ t.road.settle = none ∧
      t.port.state = .ready ∧ t.port.reply = none ∧ t.pins = s.pins ∧ t.pending = s.pending ∧
      (s.cru.intact = true → t.cru.startCause = cause ∧ t.cru.passTime = s.cru.passTime ∧
        t.cru.timeValid = s.cru.timeValid ∧ t.plan = s.plan ∧ t.part = s.part ∧
        t.road.slots = s.road.slots ∧ t.road.freeLines = s.road.freeLines ∧
        t.road.reserve = s.road.reserve ∧ t.port.enables = s.port.enables ∧
        t.port.master = s.port.master ∧ t.port.mode = s.port.mode ∧
        t.port.interval = s.port.interval ∧
        t.port.timer = restartedTimer s.port.mode s.port.interval ∧
        (s.part = .running → FreshBlocks s t ∧ (s.PartLaw → KeptBlocks s t)) ∧
        (s.part = .planning → t.road.flags = Flag.start.bit ∧ (s.PartLaw → t.road.Bare))) ∧
      (s.cru.intact = false → t.cru.startCause = .cold ∧ t.cru.passTime = 0 ∧
        t.cru.timeValid = false ∧ t.cru.intact = true ∧ t.plan = Plan.empty ∧
        t.part = .planning ∧ t.road.Bare ∧ t.road.freeLines = 512 ∧ t.port.enables = 0 ∧
        t.port.master = false ∧ t.port.mode = .attended ∧ t.port.interval = 0 ∧
        t.port.timer = none)

/-- Supply events that start or stop nothing: a mains loss while the pin holds the blocks stopped, a
mains return while the pin is held, a pin event while mains is lost, a second mains loss or return.
The backup cell's loss during an outage spoils the check word alone; with mains present it does
nothing (R188, R189, R190; log 9, log 11). -/
def Obligations.SupplyEventsWhileStopped : Prop :=
  ∀ s : State,
    (s.cru.mains = true → exec .mainsReturn s = .next s ∧ exec .backupDomainLost s = .next s) ∧
    (s.cru.mains = false → exec .mainsLoss s = .next s ∧
      exec .backupDomainLost s = .next { s with cru := { s.cru with intact := false } } ∧
      exec .resetPinAsserted s = .next { s with cru := { s.cru with pinHeld := true } } ∧
      exec .resetPinReleased s = .next { s with cru := { s.cru with pinHeld := false } }) ∧
    (s.cru.mains = true → s.cru.working = false →
      exec .mainsLoss s = .next { s with cru := { s.cru with mains := false, mainsLost := true } }) ∧
    (s.cru.mains = false → s.cru.pinHeld = true →
      exec .mainsReturn s = .next { s with cru := { s.cru with mains := true } })

/-! ### The site plan -/

/-- A PLAN request in PLANNING with a good body is DONE with an empty body and changes the plan's item
alone (R170 to R175). -/
def Obligations.PlanRequestsEditOneItem : Prop :=
  ∀ (s : State) (body : List Byte) (begun : Bool), Taking s → s.part = .planning →
    (∀ n, readBody (within1 1 64) body = some n → exec (.planRoad ⟨body, begun⟩) s =
      .next { (s.replied 0x50 body (plain .done)) with plan := { s.plan with road := some n } }) ∧
    (∀ u x, readBody planUnitBody body = some (u, x) → ∃ t, exec (.planUnit ⟨body, begun⟩) s = .next t ∧
      t = { (s.replied 0x51 body (plain .done)) with plan := t.plan } ∧ t.plan.unit u = x ∧
      (∀ w, w ≠ u → t.plan.unit w = s.plan.unit w) ∧
      t.plan = { s.plan with units := t.plan.units }) ∧
    (∀ i x, readBody planSectionBody body = some (i, x) →
      ∃ t, exec (.planSection ⟨body, begun⟩) s = .next t ∧
      t = { (s.replied 0x52 body (plain .done)) with plan := t.plan } ∧ t.plan.sec i = x ∧
      (∀ j, j ≠ i → t.plan.sec j = s.plan.sec j) ∧
      t.plan = { s.plan with sections := t.plan.sections }) ∧
    (∀ i x, readBody planDetectorBody body = some (i, x) →
      ∃ t, exec (.planDetector ⟨body, begun⟩) s = .next t ∧
      t = { (s.replied 0x53 body (plain .done)) with plan := t.plan } ∧ t.plan.detector i = x ∧
      (∀ j, j ≠ i → t.plan.detector j = s.plan.detector j) ∧
      t.plan = { s.plan with detectors := t.plan.detectors }) ∧
    (∀ i x, readBody planPathBody body = some (i, x) → ∃ t, exec (.planPath ⟨body, begun⟩) s = .next t ∧
      t = { (s.replied 0x54 body (plain .done)) with plan := t.plan } ∧ t.plan.path i = x ∧
      (∀ j, j ≠ i → t.plan.path j = s.plan.path j) ∧
      t.plan = { s.plan with paths := t.plan.paths })

/-- READ_PLAN, in PLANNING and in RUNNING, answers DONE with the item as planned, or NONE where none
is, with the next planned index of its class above the one given, lines before addresses and absent
when there is none, and changes nothing (R176). Every detector is planned. -/
def Obligations.ReadPlanReports : Prop :=
  ∀ (s : State) (body : List Byte) (a : PlanAsk) (begun : Bool), Taking s →
    readBody readPlanBody body = some a →
    ∃ item next, exec (.readPlan ⟨body, begun⟩) s = .next (s.replied 0x55 body
        { code := if item = none then .none else .done, body := .planItem item next }) ∧
      (a = .road → item = s.plan.road.map PlanItem.road ∧ next = none) ∧
      (∀ u, a = .unit u → item = (s.plan.unit u).map PlanItem.unit ∧
        (∀ n, next ≠ some (.number n)) ∧
        ∀ w, next = some (.unit w) ↔ unitIdx u < unitIdx w ∧ s.plan.unit w ≠ none ∧
          ∀ v, unitIdx u < unitIdx v → unitIdx v < unitIdx w → s.plan.unit v = none) ∧
      (∀ i, a = .sec i → item = (s.plan.sec i).map PlanItem.sec ∧
        (∀ w, next ≠ some (.unit w)) ∧
        ∀ n, next = some (.number n) ↔ ∃ j, n = j.val ∧ i < j ∧ s.plan.sec j ≠ none ∧
          ∀ k, i < k → k < j → s.plan.sec k = none) ∧
      (∀ i, a = .detector i → item = some (.detector (s.plan.detector i)) ∧
        next = if i.val = 15 then none else some (.number (i.val + 1))) ∧
      (∀ i, a = .path i → item = (s.plan.path i).map PlanItem.path ∧
        (∀ w, next ≠ some (.unit w)) ∧
        ∀ n, next = some (.number n) ↔ ∃ j, n = j.val ∧ i < j ∧ s.plan.path j ≠ none ∧
          ∀ k, i < k → k < j → s.plan.path k = none)

/-- COMMISSION: BAD_STATE while the time is not valid, BAD_PLAN with the first check that fails; taken
otherwise, it makes the records of the plan: every planned unit SEEKING, every section OPEN with
occupancy UNKNOWN, every gate standing OPEN at UNKNOWN with the unit, the section and the travel limit
that the plan gives it, every path at level 0, every copy slot UNKNOWN, an empty queue, every line in its
first round, every assigned input WORKING at its pin's level, and the reserve (R28, R67, R97, R126, R138,
R150, R166, R172, R177, R178). -/
def Obligations.Commission : Prop :=
  ∀ (s : State) (begun : Bool), Taking s → s.part = .planning →
    (s.cru.timeValid = false →
      exec (.commission ⟨[], begun⟩) s = .next (s.replied 0x56 [] (plain .badState))) ∧
    (∀ b, s.cru.timeValid = true → s.plan.fault = some b → exec (.commission ⟨[], begun⟩) s =
      .next (s.replied 0x56 [] { code := .badPlan, body := .badPlan b })) ∧
    (s.cru.timeValid = true → s.plan.fault = none → ∃ t, exec (.commission ⟨[], begun⟩) s = .next t ∧
      t.port = s.port.answered 0x56 [] { code := .done, body := .commissioned s.plan.commissionView } ∧
      t.part = .running ∧ t.plan = s.plan ∧ t.cru = s.cru ∧ t.pins = s.pins ∧
      t.pending = s.pending ∧ t.road.slots = s.road.slots ∧ t.road.flags = s.road.flags ∧
      t.road.freeLines = s.road.freeLines ∧
      t.road.reserve = s.plan.pathCount + s.plan.gateCount ∧ FreshBlocks s t ∧
      (∀ i, t.road.sec i = (s.plan.sec i).map fun _ =>
        { state := .isOpen, notice := none, sweepMin := none, sweepOver := none,
          overdue := false }) ∧
      (∀ g, (t.road.gate g).map GateRec.planned = s.plan.gatePlace g) ∧
      (∀ g x, t.road.gate g = some x →
        (∃ v m, s.plan.unit x.unit = some (.gate v m g x.travel)) ∧
        ∃ z, s.plan.sec x.sec = some z ∧ g ∈ z.gates) ∧
      (∀ g x, t.road.gate g = some x → x =
        { sec := x.sec, unit := x.unit, travel := x.travel, pos := .unknown, reported := none,
          key := none, standing := .toOpen, phase := .idle, timer := none, link := none,
          retried := false }) ∧
      (∀ p, t.road.path p = (s.plan.path p).map fun x => PathRec.mk
        (if x.monitor.isSome then .waiting else .unwatched) 0 none 0 none none none))

/-- A section stands in a state that lets DECOMMISSION be taken (R179). -/
def Rests (st : SecState) : Prop := st = .isOpen ∨ st = .closed ∨ st = .clearable

/-- DECOMMISSION: NOT_CLEAR while a section is in NOTICE, SHUTTING, SWEEP or OPENING, the queue is not
empty or a pin lies after pass time, in that order: with the lowest such section and its state, the queue
places in use, or the lowest such slot's handle and its pin. Taken otherwise: every posting is freed,
generations and version counts kept, the pool is whole and the reserve 0; no directory record, awaited
report, queue entry or SETTLE, no section, gate, path or occupancy record is left; every address is
UNPLANNED, every line sends nothing and holds no order, every input is UNUSED; flags and plan stay (R31,
R67, R97, R140, R150, R168, R179, R180). -/
def Obligations.Decommission : Prop :=
  ∀ (s : State) (begun : Bool), Taking s → s.part = .running →
    (∀ i st, s.road.secState i = some st → ¬ Rests st →
      (∀ j x, j < i → s.road.secState j = some x → Rests x) →
      exec (.decommission ⟨[], begun⟩) s = .next
        (s.replied 0x57 [] { code := .notClear, body := .blockedBySection i.val st })) ∧
    ((∀ i st, s.road.secState i = some st → Rests st) →
      (s.road.queue ≠ [] → exec (.decommission ⟨[], begun⟩) s = .next
        (s.replied 0x57 [] { code := .notClear, body := .blockedByQueue s.road.queue.length })) ∧
      (s.road.queue = [] →
        (∀ i p pin, (s.road.slot i).posting = some p → p.pin = some pin → s.cru.passTime < pin →
          (∀ j q x, j < i → (s.road.slot j).posting = some q → q.pin = some x →
            x ≤ s.cru.passTime) →
          exec (.decommission ⟨[], begun⟩) s = .next (s.replied 0x57 []
            { code := .notClear, body := .blockedByPin ⟨i, (s.road.slot i).gen⟩ pin })) ∧
        ((∀ i p pin, (s.road.slot i).posting = some p → p.pin = some pin → pin ≤ s.cru.passTime) →
          ∃ t, exec (.decommission ⟨[], begun⟩) s = .next t ∧
            t.port = s.port.answered 0x57 [] (plain .done) ∧
            t.part = .planning ∧ t.plan = s.plan ∧ t.cru = s.cru ∧ t.pins = s.pins ∧
            t.pending = s.pending ∧ t.road.Bare ∧ t.road.freeLines = 512 ∧
            t.road.flags = s.road.flags ∧
            (∀ u, t.road.dirOf u = [] ∧ t.road.awaits u = false ∧
              t.road.link u = { kind := none, state := .unplanned, misses := 0, last := none }) ∧
            (∀ l, t.road.line l =
              { pointer := none, inFlight := none, transfer := none, orders := [] }) ∧
            (∀ i, t.road.occOf i = none) ∧
            (∀ i, t.road.input i = { state := .unused, level := none, timer := none,
                                     partialMark := false, counted := 0, short := 0 }) ∧
            ∀ i, (t.road.slot i).gen = (s.road.slot i).gen ∧
              (t.road.slot i).version = (s.road.slot i).version)))

/-! ### Postings -/

/-- The checks of POST, in the order of R21: BAD_REQUEST for a fault of R22, DUPLICATE, FULL, TEXT_FULL;
nothing else changes. -/
def Obligations.PostRefusals : Prop :=
  ∀ (s : State) (body : List Byte) (b : PostBody) (begun : Bool), Taking s → s.part = .running →
    readBody postBody body = some b →
    (¬ GoodPost s b → exec (.post ⟨body, begun⟩) s = .next (s.replied 0x10 body (plain .badRequest))) ∧
    (GoodPost s b → DangerTaken s.road b →
      exec (.post ⟨body, begun⟩) s = .next (s.replied 0x10 body (plain .duplicate))) ∧
    (GoodPost s b → ¬ DangerTaken s.road b → ¬ RoomToPost s.road →
      exec (.post ⟨body, begun⟩) s = .next (s.replied 0x10 body (plain .full))) ∧
    (GoodPost s b → ¬ DangerTaken s.road b → RoomToPost s.road →
      s.road.freeLines < b.text.length →
      exec (.post ⟨body, begun⟩) s = .next (s.replied 0x10 body (plain .textFull)))

/-- A POST that passes its checks is DONE: the lowest FREE slot takes the next generation and version,
the fields are set with authority STATION, the text takes its lines, and the posting is PENDING when its
start lies after pass time, ACTIVE otherwise. A PENDING one changes nothing else; an ACTIVE one's entry
is appended to the distribution queue, and no other STATION posting changes but by the freeing of a
RETIRING one. An ACTIVE IMMEDIATE closure shuts every section under it that is
OPEN, in NOTICE or OPENING, and each gate that stood OPEN is ordered shut: PENDING with its order on the
line where the gate is REMOTE at a known position, recorded otherwise (R1, R3, R4, R6, R9, R14, R16, R21,
R75, R115, R117, R118, R120, R125, R128). -/
def Obligations.PostTaken : Prop :=
  ∀ (s : State) (body : List Byte) (b : PostBody) (begun : Bool), Taking s → s.part = .running →
    readBody postBody body = some b → GoodPost s b → ¬ DangerTaken s.road b → RoomToPost s.road →
    b.text.length ≤ s.road.freeLines → s.road.LinkLaw →
    ∃ t i p x, exec (.post ⟨body, begun⟩) s = .next t ∧
      (s.road.slot i).posting = none ∧ (∀ j, j < i → (s.road.slot j).posting ≠ none) ∧
      x = Slot.mk ((s.road.slot i).gen + 1) ((s.road.slot i).version + 1) (some p) ∧
      RoadRequest s t 0x10 body
        { code := .done, body := .posted ⟨i, x.gen⟩ p.state x.version } ∧
      t.road.slot i = x ∧
      p.kind = b.kind ∧ p.authority = .station ∧ p.severity = b.severity ∧ p.detail = b.detail ∧
      p.urgency = b.urgency ∧ p.text = b.text ∧ p.start = b.start ∧ p.expiry = b.expiry ∧
      p.pin = b.pin ∧ p.cause = none ∧ p.source = none ∧
      (∀ f l, b.place = .span f l → p.first = f ∧ p.last = l ∧ p.path = none) ∧
      (∀ n y, b.place = .path n → plannedPath s.env n = some y →
        p.first = y.first ∧ p.last = y.last ∧ p.path = some n) ∧
      p.state = (if b.start.any (s.cru.passTime < ·) then .pending else .active) ∧
      (p.state = .pending → t.road = { s.road with
        slots := vset s.road.slots i x, freeLines := s.road.freeLines - b.text.length }) ∧
      (p.state = .active → EntryMade s.env s.road t.road ⟨i, x.gen⟩) ∧
      (∀ j, j ≠ i → SlotKept s.road t.road j) ∧
      (p.state = .active → p.kind = .closure → p.urgency = some .immediate →
        ∀ j sx st, s.plan.sec j = some sx → meets p.first p.last sx.first sx.last = true →
          s.road.secState j = some st → st = .isOpen ∨ st = .notice ∨ st = .opening →
          (t.road.secState j = some .shutting ∨ t.road.secState j = some .sweep ∨
            t.road.secState j = some .closed) ∧
          ∀ g ∈ sx.gates, ∀ z, s.road.gate g = some z → z.standing = .toOpen →
            ∃ w, t.road.gate g = some w ∧ Ordered t.road .toClose z w) ∧
      t.road.reserve = s.road.reserve ∧ t.road.inputs = s.road.inputs ∧ t.road.occ = s.road.occ ∧
      t.road.links = s.road.links

/-- The checks of CHANGE, in the order of R24: STALE, AUTHORITY, RETIRED, BAD_REQUEST for a fault of
R25, BAD_STATE, AMENDED with the number of AMENDED slots, TEXT_FULL; nothing else changes. -/
def Obligations.ChangeRefusals : Prop :=
  ∀ (s : State) (body : List Byte) (b : ChangeBody) (begun : Bool), Taking s → s.part = .running →
    readBody changeBody body = some b →
    ((∀ h, b.handle = some h → s.road.named h = none) →
      exec (.change ⟨body, begun⟩) s = .next (s.replied 0x11 body (plain .stale))) ∧
    ∀ h p q, b.handle = some h → s.road.named h = some p → Changed b p q →
      (p.authority ≠ .station →
        exec (.change ⟨body, begun⟩) s = .next (s.replied 0x11 body (plain .authority))) ∧
      (p.authority = .station → p.state = .retiring →
        exec (.change ⟨body, begun⟩) s = .next (s.replied 0x11 body (plain .retired))) ∧
      (p.authority = .station → p.state ≠ .retiring →
        (¬ GoodChange s b p q →
          exec (.change ⟨body, begun⟩) s = .next (s.replied 0x11 body (plain .badRequest))) ∧
        (GoodChange s b p q → b.start ≠ none → p.state = .active →
          exec (.change ⟨body, begun⟩) s = .next (s.replied 0x11 body (plain .badState))) ∧
        (GoodChange s b p q → (b.start = none ∨ p.state = .pending) →
          (TouchesCarried b → s.road.amendedCopies h ≠ 0 → b.overrule = false →
            exec (.change ⟨body, begun⟩) s = .next (s.replied 0x11 body
              { code := .amended, body := .amendedSlots (s.road.amendedCopies h) })) ∧
          (¬ (TouchesCarried b ∧ s.road.amendedCopies h ≠ 0 ∧ b.overrule = false) →
            ∀ x, b.text = some x → s.road.freeLines + p.text.length < x.length →
            exec (.change ⟨body, begun⟩) s = .next (s.replied 0x11 body (plain .textFull)))))

/-- A CHANGE that passes its checks is DONE: each given field replaces the old value, the version rises
by one exactly when a carried field differs, a PENDING posting whose new start has passed is ACTIVE, the
text is swapped in the pool, and of an ACTIVE posting that rose the copies are marked. The entry of an
ACTIVE posting that rose, and of one that started, is appended to the distribution queue or coalesced.
No other STATION posting changes but by the freeing of a RETIRING one. With no rise and no start the pool
and the slot alone change (R4, R7, R9, R14, R17, R24, R26, R75). -/
def Obligations.ChangeTaken : Prop :=
  ∀ (s : State) (body : List Byte) (b : ChangeBody) (h : Handle) (p q : Posting) (v : Byte)
    (begun : Bool),
    Taking s → s.part = .running → readBody changeBody body = some b → b.handle = some h →
    s.road.named h = some p → p.authority = .station → p.state ≠ .retiring → Changed b p q →
    GoodChange s b p q → (b.start = none ∨ p.state = .pending) →
    ¬ (TouchesCarried b ∧ s.road.amendedCopies h ≠ 0 ∧ b.overrule = false) →
    q.text.length ≤ s.road.freeLines + p.text.length → s.road.LinkLaw →
    q.state = (if p.state = .pending ∧ b.start.any (· ≤ s.cru.passTime) = true then .active
      else p.state) →
    v = (if q.carried = p.carried then s.road.version h else s.road.version h + 1) →
    ∃ t, exec (.change ⟨body, begun⟩) s = .next t ∧
      RoadRequest s t 0x11 body { code := .done, body := .changed q.state v } ∧
      t.road.slot h.slot = { gen := h.gen, version := v, posting := some q } ∧
      (q.state = .pending ∨ p.state = .active ∧ q.carried = p.carried →
        t.road = { s.road with
          slots := vset s.road.slots h.slot { gen := h.gen, version := v, posting := some q },
          freeLines := s.road.freeLines + p.text.length - q.text.length }) ∧
      (∀ (u : UnitId) (n : Nat) (c : CopySlot), (s.road.dirOf u)[n]? = some c →
        c.handle? = some h → (t.road.dirOf u)[n]? =
          some (if p.state = .active ∧ q.carried ≠ p.carried then markedRecord b.overrule c else c)) ∧
      (p.state = .active ∧ q.carried ≠ p.carried ∨ p.state = .pending ∧ q.state = .active →
        EntryMade s.env s.road t.road h) ∧
      (∀ i, i ≠ h.slot → SlotKept s.road t.road i) ∧
      t.road.reserve = s.road.reserve ∧ t.road.inputs = s.road.inputs ∧ t.road.occ = s.road.occ ∧
      t.road.links = s.road.links

/-- RETIRE, in the order of R27: STALE, AUTHORITY for a FIELD posting, RETIRED, PINNED with the pin,
AMENDED. Taken, a PENDING STATION posting is freed with its lines, and nothing else changes; an ACTIVE
posting enters RETIRING with cause HOST, its copies are marked and its entry is appended or coalesced;
it is freed in the same event only when no queue entry and no copy slot names it, and no other STATION
posting changes but by the freeing of a RETIRING one (R12, R13, R14, R17, R27, R75). -/
def Obligations.Retire : Prop :=
  ∀ (s : State) (body : List Byte) (x : Option Handle) (overrule begun : Bool), Taking s →
    s.part = .running → readBody retireBody body = some (x, overrule) →
    ((∀ h, x = some h → s.road.named h = none) →
      exec (.retire ⟨body, begun⟩) s = .next (s.replied 0x12 body (plain .stale))) ∧
    ∀ h p, x = some h → s.road.named h = some p →
      (p.authority = .field →
        exec (.retire ⟨body, begun⟩) s = .next (s.replied 0x12 body (plain .authority))) ∧
      (p.authority ≠ .field → p.state = .retiring →
        exec (.retire ⟨body, begun⟩) s = .next (s.replied 0x12 body (plain .retired))) ∧
      (p.authority = .station → p.state = .pending → exec (.retire ⟨body, begun⟩) s = .next
        { (s.replied 0x12 body { code := .done, body := .retired none }) with
          road := { s.road with
            slots := vset s.road.slots h.slot { s.road.slot h.slot with posting := none },
            freeLines := s.road.freeLines + p.text.length } }) ∧
      (∀ pin, p.authority ≠ .field → p.state = .active → p.pin = some pin → s.cru.passTime < pin →
        exec (.retire ⟨body, begun⟩) s =
          .next (s.replied 0x12 body { code := .pinned, body := .pin pin })) ∧
      (p.authority ≠ .field → p.state = .active → (∀ pin, p.pin = some pin → pin ≤ s.cru.passTime) →
        (s.road.amendedCopies h ≠ 0 → overrule = false →
          exec (.retire ⟨body, begun⟩) s = .next (s.replied 0x12 body (plain .amended))) ∧
        (s.road.amendedCopies h = 0 ∨ overrule = true → s.road.LinkLaw →
          ∃ t, exec (.retire ⟨body, begun⟩) s = .next t ∧
            RoadRequest s t 0x12 body { code := .done, body := .retired (some .retiring) } ∧
            (t.road.named h = some { p with state := .retiring, cause := some .host } ∧
                t.road.version h = s.road.version h ∨
              t.road.named h = none ∧ Entry.posting h ∉ t.road.queue ∧
                (∀ u, ∀ c ∈ t.road.dirOf u, c.handle? ≠ some h)) ∧
            (∀ (u : UnitId) (n : Nat) (c : CopySlot), (s.road.dirOf u)[n]? = some c →
              c.handle? = some h → (t.road.dirOf u)[n]? = some (markedRecord overrule c)) ∧
            EntryMade s.env s.road t.road h ∧
            (∀ i, i ≠ h.slot → SlotKept s.road t.road i) ∧
            t.road.reserve = s.road.reserve ∧ t.road.inputs = s.road.inputs ∧
            t.road.occ = s.road.occ ∧ t.road.links = s.road.links))

/-- LOOKUP answers STALE, or DONE with the record, the CURRENT, BEHIND, AMENDED and OVERRULED copies
that name the handle, the amendment-outstanding flag and the queued flag; it changes nothing (R2,
R23). -/
def Obligations.LookupReply : Prop :=
  ∀ (s : State) (body : List Byte) (x : Option Handle) (begun : Bool), Taking s → s.part = .running →
    readBody handleField body = some x →
    ((∀ h, x = some h → s.road.named h = none) →
      exec (.lookup ⟨body, begun⟩) s = .next (s.replied 0x13 body (plain .stale))) ∧
    ∀ h p, x = some h → s.road.named h = some p →
      ∃ current behind amended overruled, exec (.lookup ⟨body, begun⟩) s = .next (s.replied 0x13 body
        { code := .done, body := .found ⟨h, s.road.version h, p⟩ current behind amended overruled
                                   (amended != 0) (decide (Entry.posting h ∈ s.road.queue)) }) ∧
      current = ((allUnits.flatMap s.road.dirOf).countP fun c => match c with
        | .current h' _ => h' == h
        | _ => false) ∧
      behind = ((allUnits.flatMap s.road.dirOf).countP fun c => match c with
        | .behind h' _ => h' == h
        | _ => false) ∧
      amended = ((allUnits.flatMap s.road.dirOf).countP fun c => match c with
        | .amended h' _ => h' == h
        | _ => false) ∧
      overruled = ((allUnits.flatMap s.road.dirOf).countP fun c => match c with
        | .overruled h' _ => h' == h
        | _ => false)

/-! ### Scans, walks and readings -/

/-- SCAN examines segments from its start in its direction, at most as many as asked and none beyond
the road end, and stops at the first that is covered by a matching posting, or in clear mode by none:
DONE there, NONE when there is no such segment. In covered mode the best matching posting of the
segment and the number of them are named. A start off the road is refused; nothing changes (R32 to
R37). -/
def Obligations.ScanReply : Prop :=
  ∀ (s : State) (body : List Byte) (b : ScanBody) (begun : Bool), Taking s → s.part = .running →
    readBody scanBody body = some b →
    (s.env.roadLen ≤ b.start →
      exec (.scan ⟨body, begun⟩) s = .next (s.replied 0x20 body (plain .badRequest))) ∧
    (b.start < s.env.roadLen → ∃ v, exec (.scan ⟨body, begun⟩) s = .next (s.replied 0x20 body
        { code := if v.found = none then .none else .done, body := .scanned v }) ∧
      ∃ (seg : Nat → Nat) (room k : Nat) (hit : Nat → Prop),
        seg = (fun j => match b.dir with
          | .south => b.start + j
          | .north => b.start - j) ∧
        room = min b.count (match b.dir with
          | .south => s.env.roadLen - b.start
          | .north => b.start + 1) ∧
        (∀ g, hit g ↔ (b.clear = true ↔ ¬ ∃ i p, (s.road.slot i).posting = some p ∧
          b.matches p = true ∧ p.first ≤ g ∧ g ≤ p.last)) ∧
        k < room ∧ (∀ j, j < k → ¬ hit (seg j)) ∧ v.examined = k + 1 ∧
        (v.found = some (seg k) ∧ hit (seg k) ∨
          v.found = none ∧ ¬ hit (seg k) ∧ k + 1 = room) ∧
        v.next = (match b.dir with
          | .south => if seg k + 1 < s.env.roadLen then some (seg k + 1) else none
          | .north => if seg k = 0 then none else some (seg k - 1)) ∧
        v.atEnd = v.next.isNone ∧
        (v.best = none ∧ v.matching = none ↔ v.found = none ∨ b.clear = true) ∧
        (v.found ≠ none → b.clear = false → ∃ i p, (s.road.slot i).posting = some p ∧
          b.matches p = true ∧ p.first ≤ seg k ∧ seg k ≤ p.last ∧
          (∀ j q, (s.road.slot j).posting = some q → b.matches q = true → q.first ≤ seg k →
            seg k ≤ q.last → j ≠ i → ranksBefore b.start b.dir (j, q) (i, p) = false) ∧
          v.best = some (s.road.bestView (i, p)) ∧
          v.matching = some ((allSlots.countP fun j => (s.road.slot j).posting.any fun q =>
            b.matches q && decide (q.first ≤ seg k) && decide (seg k ≤ q.last)))))

/-- WALK answers with the first posting that passes its filter, at or after its slot, in slot order,
and with the slot after it; NONE when there is no such posting. DESCRIBE answers with the sizes of
table, pool, queue and plan, in PLANNING and in RUNNING. Neither changes anything. That each GATE unit
of a plan in editing counts as a planned gate is the model's choice (R38 to R41; log 37). -/
def Obligations.WalkAndDescribe : Prop :=
  ∀ (s : State) (body : List Byte) (begun : Bool), Taking s →
    (∀ b, s.part = .running → readBody walkBody body = some b →
      ((∀ i p, (s.road.slot i).posting = some p → b.slot ≤ i.val → b.passes p = false) →
        exec (.walk ⟨body, begun⟩) s = .next (s.replied 0x21 body (plain .none))) ∧
      (∀ i p, (s.road.slot i).posting = some p → b.slot ≤ i.val → b.passes p = true →
        (∀ j q, (s.road.slot j).posting = some q → b.slot ≤ j.val → j < i → b.passes q = false) →
        exec (.walk ⟨body, begun⟩) s = .next (s.replied 0x21 body ⟨.done, .walked
          ⟨⟨i, (s.road.slot i).gen⟩, (s.road.slot i).version, p⟩
          (if i.val = 255 then none else some (i.val + 1))⟩))) ∧
    ∃ v, exec (.describe ⟨[], begun⟩) s = .next (s.replied 0x22 [] { code := .done, body := .described v }) ∧
      v.part = s.part ∧ v.capacity = 256 ∧ v.reserve = s.road.reserve ∧
      v.station = s.road.countPostings (·.authority == .station) ∧
      v.auto = s.road.countPostings (·.authority == .auto) ∧
      v.field = s.road.countPostings (·.authority == .field) ∧
      v.pending = s.road.countPostings (·.state == .pending) ∧
      v.active = s.road.countPostings (·.state == .active) ∧
      v.retiring = s.road.countPostings (·.state == .retiring) ∧
      v.room = 256 - s.road.reserve - v.station ∧ v.linesFree = s.road.freeLines ∧
      v.linesUsed = 512 - s.road.freeLines ∧ v.queued = s.road.queue.length ∧
      v.segments = s.plan.road.getD 0 ∧ v.sections = s.plan.sectionCount ∧
      v.gates = s.plan.gateCount ∧ v.units = s.plan.unitCount ∧ v.paths = s.plan.pathCount ∧
      v.detectors = s.plan.detectorCount

/-- UNIT_STATUS, SECTION_STATUS, GATE_STATUS, DETECTOR_STATUS and PATH_STATUS answer DONE with the
record as it stands, timers in whole seconds and detector timers in milliseconds, and change nothing; a
unit's gate order with its direction and whether it is in flight, a section's gates with their
positions, a path's danger posting or none; a section, gate or path with no record is refused (R65,
R136, R137, R149, R165). -/
def Obligations.StatusReads : Prop :=
  ∀ (s : State) (body : List Byte) (begun : Bool), Taking s → s.part = .running →
    (∀ u, readBody unitIn body = some u → ∃ v,
      exec (.unitStatus ⟨body, begun⟩) s = .next (s.replied 0x23 body { code := .done, body := .unit v }) ∧
      ((s.road.link u).kind = none → v = UnitView.mk none .unplanned none none none none []) ∧
      (∀ k, (s.road.link u).kind = some k → v.kind = some k ∧ v.state = (s.road.link u).state ∧
        v.misses = some (s.road.link u).misses ∧ v.last = (s.road.link u).last ∧
        v.slots = s.road.dirOf u ∧
        (∀ x, (s.road.line u.line).transfer = some x → x.addr = u.addr →
          v.transfer = some { kind := x.kind, slot := x.slot, step := x.step, tries := x.tries }) ∧
        ((∀ x, (s.road.line u.line).transfer = some x → x.addr ≠ u.addr) → v.transfer = none) ∧
        (v.order = none ↔ ∀ o ∈ (s.road.line u.line).orders, o.addr ≠ u.addr) ∧
        (∀ o, (s.road.line u.line).orders.find? (·.addr == u.addr) = some o →
          ∃ flies, v.order = some (o.dir, flies) ∧ (flies = true ↔
            ∃ d ms, (s.road.line u.line).inFlight =
              some { addr := u.addr, sent := .gateOrder d, ms := ms })))) ∧
    (∀ i, readBody (index 8) body = some i →
      (s.plan.sec i = none ∨ s.road.sec i = none →
        exec (.sectionStatus ⟨body, begun⟩) s = .next (s.replied 0x24 body (plain .badRequest))) ∧
      (∀ x y, s.plan.sec i = some x → s.road.sec i = some y → ∃ v,
        exec (.sectionStatus ⟨body, begun⟩) s =
          .next (s.replied 0x24 body { code := .done, body := .sec v }) ∧
        v.state = y.state ∧ v.covered = s.road.covered s.env i ∧
        v.atOnce = s.road.coveredAtOnce s.env i ∧
        v.notice = y.notice.map (· / 1000) ∧ v.sweepMin = y.sweepMin.map (· / 1000) ∧
        v.sweepOver = y.sweepOver.map (· / 1000) ∧
        v.overdue = (if y.state = .sweep then some y.overdue else none) ∧
        v.ready = (if y.state = .notice then
          some (x.approach.length, x.approach.countP (s.road.unitReady x)) else none) ∧
        (∀ o, s.road.occOf i = some o → v.occupancy = o) ∧
        ((∀ g ∈ x.gates, ∃ z, s.road.gate g = some z) → v.gates.map (·.1) = x.gates ∧
          (∀ g pos, (g, pos) ∈ v.gates → ∃ z, s.road.gate g = some z ∧ z.pos = pos) ∧
          (s.road.StandingLaw s.env → x.gates ≠ [] → v.standing = y.state.standing)))) ∧
    (∀ g, readBody (index 16) body = some g →
      (s.road.gate g = none →
        exec (.gateStatus ⟨body, begun⟩) s = .next (s.replied 0x25 body (plain .badRequest))) ∧
      (∀ x, s.road.gate g = some x → ∃ v,
        exec (.gateStatus ⟨body, begun⟩) s =
          .next (s.replied 0x25 body { code := .done, body := .gate v }) ∧
        v.sec = x.sec ∧ v.unit = x.unit ∧ v.travel = x.travel ∧ v.pos = x.pos ∧
        v.reported = x.reported ∧ v.key = x.key ∧ v.standing = x.standing ∧ v.phase = x.phase ∧
        v.timer = x.timer.map (· / 1000) ∧
        (∀ h p, x.link = some h → s.road.named h = some p → v.link = some (h, p.state)) ∧
        (x.link = none → v.link = none)) ∧
      ∃ v, exec (.detectorStatus ⟨body, begun⟩) s =
          .next (s.replied 0x26 body { code := .done, body := .detector v }) ∧
        v.plan = s.plan.detector g ∧ v.state = (s.road.input g).state ∧
        v.level = (s.road.input g).level ∧ v.timer = (s.road.input g).timer ∧
        v.counted = (s.road.input g).counted ∧ v.short = (s.road.input g).short ∧
        v.partialMark = (if (s.road.input g).state = .unused then none
          else some (s.road.input g).partialMark) ∧
        v.occupancy = ((s.plan.detector g).assign.bind fun a => s.road.occOf a.1)) ∧
    (∀ p, readBody (index 24) body = some p →
      (s.plan.path p = none ∨ s.road.path p = none →
        exec (.pathStatus ⟨body, begun⟩) s = .next (s.replied 0x27 body (plain .badRequest))) ∧
      (∀ x y, s.plan.path p = some x → s.road.path p = some y → ∃ v,
        exec (.pathStatus ⟨body, begun⟩) s =
          .next (s.replied 0x27 body { code := .done, body := .path v }) ∧
        v.watch = y.watch ∧ v.level = y.level ∧ v.threshold = x.threshold y.level ∧
        v.timer = y.timer.map (· / 1000) ∧ v.count = y.count ∧ v.baseline = y.baseline ∧
        v.monitor = x.monitor.map (fun u => (u, (s.road.link u).state)) ∧ v.last = y.last ∧
        (∀ i q, (s.road.slot i).posting = some q → q.kind = .danger → q.path = some p.val →
          q.state ≠ .retiring → s.road.DangerLaw → v.danger = some ⟨i, (s.road.slot i).gen⟩) ∧
        ((∀ i q, (s.road.slot i).posting = some q → q.kind = .danger → q.path = some p.val →
          q.state = .retiring) → v.danger = none) ∧
        (∀ h q, y.link = some h → s.road.named h = some q → v.link = some (h, q.state, q.pin)) ∧
        (y.link = none → v.link = none)))

/-! ### Coverage, freeing and the queue -/

/-- Every step keeps the sections with their coverage: no OPEN, CLEARABLE or OPENING section lies under
an ACTIVE closure, every NOTICE and CLOSED one does, and none stands in NOTICE under an IMMEDIATE one
(R115 to R118, R122 to R125); with their gates, a SHUTTING section having one that is not CLOSED, and an
OPENING one one that is not OPEN (R120, R125, R127, R130, R132); and every path's danger level with the
table (R16, R153, R167). -/
def Obligations.SectionAndLevelLawsKept : Prop :=
  ∀ s t : State, s.PartLaw → s.PortLaw → Machine.step s = .next t →
    (s.road.CoverLaw s.env → t.road.CoverLaw t.env) ∧
    (s.road.GateLaw s.env → t.road.GateLaw t.env) ∧
    (s.road.LinkLaw → s.road.LevelLaw → t.road.LevelLaw)

/-- The freeing test frees every RETIRING posting that no queue entry and no copy slot names, and no
other: its slot keeps generation and version, its lines return, every other slot stays (R14). And an
entry appended to a standing queue coalesces into an equal not-yet-started entry that no settle marker
stands behind, and otherwise takes the tail (R74, R75). -/
def Obligations.FreeingAndAppending : Prop :=
  ∀ r : Road,
    (∀ i p, (r.slot i).posting = some p →
      (p.state = .retiring ∧ Entry.posting (r.handleAt i) ∉ r.queue ∧
          (∀ u, ∀ c ∈ r.dirOf u, c.handle? ≠ some (r.handleAt i)) →
        r.freeTest.slot i = { r.slot i with posting := none }) ∧
      (p.state ≠ .retiring ∨ Entry.posting (r.handleAt i) ∈ r.queue ∨
          (∃ u, ∃ c ∈ r.dirOf u, c.handle? = some (r.handleAt i)) →
        r.freeTest.slot i = r.slot i)) ∧
    (∀ i, (r.slot i).posting = none → r.freeTest.slot i = r.slot i) ∧
    r.freeTest.freeLines + r.freeTest.textLines = r.freeLines + r.textLines ∧
    r.freeTest.queue = r.queue ∧ r.freeTest.dir = r.dir ∧
    ∀ (e : Env) (en : Entry), r.queue ≠ [] → headStep e r = none →
      (en ∈ r.queue.tail.reverse.takeWhile (· != .marker) → r.append e en = r) ∧
      (en ∉ r.queue.tail.reverse.takeWhile (· != .marker) →
        r.append e en = { r with queue := r.queue ++ [en] })

/-! ### Sections and gates -/

/-- RELEASE_SECTION, FORCE_SWEEP and CONFIRM_CLEAR: refused BAD_REQUEST for a section not planned; taken
in CLEARABLE, SHUTTING and SWEEP; refused NOT_CLEAR (a RELEASE of a covered section) or BAD_STATE
elsewhere. A release orders every gate open, PENDING with its order on the line where the gate is REMOTE
at a known position and recorded otherwise, and enters OPENING, or OPEN when the gates stand open; a
forced sweep starts both sweep timers; a confirmed section's occupancy is KNOWN zero, and the sweep ends
when its minimum has run (R121, R122, R124, R125, R128, R148). -/
def Obligations.SectionActions : Prop :=
  ∀ (s : State) (body : List Byte) (i : Fin 8) (begun : Bool), Taking s → s.part = .running →
    readBody (index 8) body = some i →
    (s.road.secState i = none →
      exec (.releaseSection ⟨body, begun⟩) s = .next (s.replied 0x30 body (plain .badRequest)) ∧
      exec (.forceSweep ⟨body, begun⟩) s = .next (s.replied 0x31 body (plain .badRequest)) ∧
      exec (.confirmClear ⟨body, begun⟩) s = .next (s.replied 0x32 body (plain .badRequest))) ∧
    (∀ st, s.road.secState i = some st →
      (st ≠ .clearable → s.road.covered s.env i = true →
        exec (.releaseSection ⟨body, begun⟩) s = .next (s.replied 0x30 body (plain .notClear))) ∧
      (st ≠ .clearable → s.road.covered s.env i = false →
        exec (.releaseSection ⟨body, begun⟩) s = .next (s.replied 0x30 body (plain .badState))) ∧
      (st ≠ .shutting →
        exec (.forceSweep ⟨body, begun⟩) s = .next (s.replied 0x31 body (plain .badState))) ∧
      (st ≠ .sweep →
        exec (.confirmClear ⟨body, begun⟩) s = .next (s.replied 0x32 body (plain .badState)))) ∧
    (s.road.secState i = some .clearable → ∃ t st, exec (.releaseSection ⟨body, begun⟩) s = .next t ∧
      RoadRequest s t 0x30 body { code := .done, body := .sectionState st } ∧
      t.road.secState i = some st ∧
      st = (if t.road.gatesAt s.env i .isOpen then .isOpen else .opening) ∧
      (∀ g ∈ sectionGates s.env i, ∀ z, t.road.gate g = some z → z.standing = .toOpen) ∧
      GatesOrdered s t i .toOpen ∧ (∀ j, j ≠ i → t.road.sec j = s.road.sec j) ∧
      hasFlag t.road.flags .sectionChange = true ∧ t.road.slots = s.road.slots ∧
      t.road.dir = s.road.dir ∧ t.road.queue = s.road.queue ∧ t.road.occ = s.road.occ ∧
      t.road.inputs = s.road.inputs ∧ t.road.paths = s.road.paths ∧
      t.road.links = s.road.links) ∧
    (∀ x, s.plan.sec i = some x → s.road.secState i = some .shutting →
      ∃ t st, exec (.forceSweep ⟨body, begun⟩) s = .next t ∧
      RoadRequest s t 0x31 body { code := .done, body := .sectionState st } ∧
      t.road = { s.road with
        sections := t.road.sections, flags := s.road.flags ||| Flag.sectionChange.bit } ∧
      (∀ j, j ≠ i → t.road.sec j = s.road.sec j) ∧
      (x.sweepMin ≠ 0 ∨ s.road.occOf i ≠ some (.known 0) → st = .sweep ∧ t.road.sec i = some
        ⟨.sweep, none, if x.sweepMin = 0 then none else some 0, some 0, false⟩) ∧
      (x.sweepMin = 0 → s.road.occOf i = some (.known 0) →
        st = (if s.road.covered s.env i then .closed else .clearable) ∧
        t.road.sec i = some ⟨st, none, none, none, false⟩)) ∧
    (∀ y old, s.road.sec i = some y → y.state = .sweep → s.road.occOf i = some old →
      ∃ t st, exec (.confirmClear ⟨body, begun⟩) s = .next t ∧
      RoadRequest s t 0x32 body { code := .done, body := .confirmed st (allInputs.countP fun n =>
        (s.plan.detector n).assign.any (·.1 == i) && (s.road.input n).state == .stuck) } ∧
      t.road.occOf i = some (.known 0) ∧ (∀ j, j ≠ i → t.road.occOf j = s.road.occOf j) ∧
      (∀ j, j ≠ i → t.road.sec j = s.road.sec j) ∧
      t.road = { s.road with
        sections := t.road.sections, occ := t.road.occ, flags := t.road.flags } ∧
      (y.sweepMin ≠ none → st = .sweep ∧ t.road.sec i = some y ∧ t.road.flags = s.road.flags) ∧
      (y.sweepMin = none → old ≠ .known 0 →
        st = (if s.road.covered s.env i then .closed else .clearable) ∧
        t.road.sec i = some ⟨st, none, none, none, false⟩ ∧
        t.road.flags = s.road.flags ||| Flag.sectionChange.bit))

/-- GATE_RETRY: refused BAD_REQUEST for a gate not planned and BAD_STATE for one that is not JAMMED or
FAULT under key REMOTE; taken, the position is the one last reported, which sets GATE_FAULT when it takes
a JAMMED gate to FAULT, the order for the standing order stands on the unit's line, and the retry is
marked until the unit's next report (the model's mark, log 36). A travel timer at its limit makes a
TRAVELLING gate JAMMED, with GATE_FAULT, and does nothing to another (R127, R128, R130, R132). -/
def Obligations.GateRetryAndTravelLimit : Prop :=
  ∀ (s : State) (g : Fin 16) (begun : Bool),
    (∀ body, Taking s → s.part = .running → readBody (index 16) body = some g →
      (s.road.gate g = none →
        exec (.gateRetry ⟨body, begun⟩) s = .next (s.replied 0x33 body (plain .badRequest))) ∧
      (∀ x, s.road.gate g = some x →
        (¬ ((x.pos = .jammed ∨ x.pos = .fault) ∧ x.key = some .remote) →
          exec (.gateRetry ⟨body, begun⟩) s = .next (s.replied 0x33 body (plain .badState))) ∧
        ((x.pos = .jammed ∨ x.pos = .fault) ∧ x.key = some .remote →
          ∃ t y, exec (.gateRetry ⟨body, begun⟩) s = .next t ∧
            RoadRequest s t 0x33 body { code := .done, body := .retried y.pos y.phase } ∧
            t.road.gate g = some y ∧ y = { x with
              pos := y.pos, phase := .pending, timer := none, retried := true } ∧
            (∀ p, x.reported = some p → y.pos = posOfReport p) ∧
            (x.pos = .jammed → x.reported = some .fault →
              hasFlag t.road.flags .gateFault = true) ∧
            (x.pos = .fault → hasFlag t.road.flags .gateFault = hasFlag s.road.flags .gateFault) ∧
            (∃ o ∈ (t.road.line x.unit.line).orders, o.addr = x.unit.addr ∧ o.dir = x.standing) ∧
            (∀ n, n ≠ g → t.road.gate n = s.road.gate n) ∧
            (∀ i, i ≠ x.sec → t.road.sec i = s.road.sec i) ∧
            (∀ l, l ≠ x.unit.line → t.road.line l = s.road.line l) ∧
            t.road = { s.road with
              gates := t.road.gates, sections := t.road.sections, lines := t.road.lines,
              flags := t.road.flags }))) ∧
    (∀ x, s.cru.working = true → s.road.gate g = some x →
      (x.phase = .travelling → ∃ t, exec (.travelLimitReached g) s = .next t ∧
        t.road.gate g = some { x with pos := .jammed, timer := none, phase := .idle } ∧
        hasFlag t.road.flags .gateFault = true ∧
        (∀ n, n ≠ g → t.road.gate n = s.road.gate n) ∧
        (∀ i, i ≠ x.sec → t.road.sec i = s.road.sec i) ∧
        t = { s with road := { s.road with
          gates := t.road.gates, sections := t.road.sections, flags := t.road.flags } }) ∧
      (x.phase ≠ .travelling → exec (.travelLimitReached g) s = .next s)) ∧
    (s.road.gate g = none → exec (.travelLimitReached g) s = .next s)

/-- The section timers. The notice timer at L shuts a ready section, and any section whose W is 0; at
L + W it shuts the section ready or not: every entry gate is then ordered closed, PENDING with its order
on the line where the gate is REMOTE at a known position and recorded otherwise. The sweep minimum ends
the sweep of a section whose occupancy is KNOWN zero, and otherwise only stops; the sweep overdue sets
SWEEP_OVERDUE and nothing else. A timer whose section stands in another state does nothing (R118, R120,
R122, R128). That a notice timer below L is raised to L by this command is the model's choice (log 2). -/
def Obligations.SectionTimers : Prop :=
  ∀ (s : State) (i : Fin 8), s.cru.working = true →
    (∀ c, c = Instr.noticeTimerReachesL i ∨ c = Instr.noticeWaitRunOut i →
      (s.road.secState i ≠ some .notice → exec c s = .next s) ∧
      (s.road.secState i = some .notice →
        (c = .noticeWaitRunOut i ∨ s.road.ready s.env i = true ∨ waitMs s.env i = 0) →
        ∃ t st, exec c s = .next t ∧ t.road.secState i = some st ∧
          (st = .shutting ∧ t.road.gatesAt s.env i .closed = false ∨ st = .sweep ∨ st = .closed ∨
            st = .clearable) ∧
          (∀ g ∈ sectionGates s.env i, ∀ z, t.road.gate g = some z → z.standing = .toClose) ∧
          GatesOrdered s t i .toClose ∧ (∀ j, j ≠ i → t.road.sec j = s.road.sec j) ∧
          hasFlag t.road.flags .sectionChange = true ∧
          t = { s with road := { s.road with
            gates := t.road.gates, sections := t.road.sections, lines := t.road.lines,
            flags := t.road.flags } })) ∧
    (∀ x, s.road.sec i = some x → x.state = .notice → s.road.ready s.env i = false →
      waitMs s.env i ≠ 0 → exec (.noticeTimerReachesL i) s = .next { s with
        road := s.road.setSec i { x with notice := some (max (x.notice.getD 0) (leadMs s.env i)) } }) ∧
    (∀ x, s.road.sec i = some x → x.state = .sweep → x.sweepMin ≠ none →
      (s.road.occOf i ≠ some (.known 0) → exec (.sweepMinimumRun i) s =
        .next { s with road := s.road.setSec i { x with sweepMin := none } }) ∧
      (s.road.occOf i = some (.known 0) → exec (.sweepMinimumRun i) s =
        .next { s with road := (s.road.setSec i ⟨if s.road.covered s.env i then .closed
          else .clearable, none, none, none, false⟩).raise .sectionChange })) ∧
    (∀ x, s.road.sec i = some x → x.state = .sweep → x.sweepOver ≠ none →
      exec (.sweepOverdueRun i) s = .next { s with
        road := (s.road.setSec i { x with sweepOver := none, overdue := true }).raise
          .sweepOverdue }) ∧
    (∀ x, s.road.sec i = some x → (x.state ≠ .sweep ∨ x.sweepMin = none →
        exec (.sweepMinimumRun i) s = .next s) ∧
      (x.state ≠ .sweep ∨ x.sweepOver = none → exec (.sweepOverdueRun i) s = .next s)) ∧
    (s.road.sec i = none → exec (.sweepMinimumRun i) s = .next s ∧
      exec (.sweepOverdueRun i) s = .next s)

/-! ### Vehicle counting -/

/-- A rise on a WORKING input: the level is HIGH, the high timer stands at zero, the partial mark is
clear, and nothing else changes, no occupancy and neither counter; so too when HIGH is already recorded.
The input then stays WORKING through each millisecond that leaves the timer below the stuck limit: no
stuck limit comes of it (R143). That a step on an empty queue is such a millisecond is the model's choice
(log 1), and so is what a stuck-limit command does that comes below the limit (log 2). -/
def Obligations.DetectorRise : Prop :=
  ∀ (s : State) (i : Fin 16), s.cru.working = true → (s.road.input i).state = .working →
    exec (.detectorRise i) s = .next { s with
      pins := vset s.pins i .high,
      road := s.road.setInput i { s.road.input i with
        level := some .high, timer := some 0, partialMark := false } } ∧
    ∀ n, s.pending = [] → (s.road.input i).level = some .high → (s.road.input i).timer = some n →
      n + 1 < (s.plan.detector i).stuck * 1000 → ∃ t, Machine.step s = .next t ∧
        t.road.input i = { s.road.input i with timer := some (n + 1) } ∧
        Instr.stuckLimitReached i ∉ t.pending

/-- A fall on a WORKING input: the level is LOW and the timer stops; a timed pulse without partial mark
is short below the minimum pulse, else counted, and the section's occupancy counts it, becoming UNKNOWN
on an OUT at zero and an IN at 4095; a sweep whose minimum has run ends when it leaves the occupancy
KNOWN zero. A rise or a fall on a STUCK input puts it back to WORKING without a count; edges on an
UNUSED one do nothing. A stuck limit makes a HIGH input STUCK, sets DETECTOR_FAULT and makes the
occupancy UNKNOWN (R122, R142, R144 to R147). -/
def Obligations.DetectorFallAndStuck : Prop :=
  ∀ (s : State) (i : Fin 16) (x : InputRec) (low : InputRec), s.cru.working = true →
    x = s.road.input i →
    low = { x with state := .working, level := some .low, timer := none, partialMark := false } →
    (x.state = .unused →
      exec (.detectorFall i) s = .next { s with pins := vset s.pins i .low } ∧
      exec (.detectorRise i) s = .next { s with pins := vset s.pins i .high }) ∧
    (x.state = .stuck →
      exec (.detectorFall i) s = .next { s with
        pins := vset s.pins i .low, road := s.road.setInput i low } ∧
      exec (.detectorRise i) s = .next { s with
        pins := vset s.pins i .high,
        road := s.road.setInput i { low with level := some .high, timer := some 0 } }) ∧
    (x.state = .working → (x.level ≠ some .high ∨ x.timer = none) →
      exec (.detectorFall i) s = .next { s with
        pins := vset s.pins i .low,
        road := s.road.setInput i { x with level := some .low, timer := none } }) ∧
    (∀ width, x.state = .working → x.level = some .high → x.timer = some width →
      (x.partialMark = true → exec (.detectorFall i) s = .next { s with
        pins := vset s.pins i .low, road := s.road.setInput i low }) ∧
      (x.partialMark = false → width < (s.plan.detector i).minPulse →
        exec (.detectorFall i) s = .next { s with
          pins := vset s.pins i .low,
          road := s.road.setInput i { low with short := x.short + 1 } }) ∧
      (∀ (n : Fin 8) (sense : Sense) (old : Occ), x.partialMark = false →
        (s.plan.detector i).minPulse ≤ width → (s.plan.detector i).assign = some (n, sense) →
        s.road.occOf n = some old → ∃ t new, exec (.detectorFall i) s = .next t ∧
        t = { s with
          pins := vset s.pins i .low,
          road := { s.road.setInput i { low with counted := x.counted + 1 } with
            occ := vset s.road.occ n (some new), sections := t.road.sections,
            flags := t.road.flags } } ∧
        new = (match old, sense with
          | .unknown, _ => .unknown
          | .known k, .into => if k < 4095 then .known (k + 1) else .unknown
          | .known k, .out => if k = 0 then .unknown else .known (k - 1)) ∧
        (∀ j, j ≠ n → t.road.sec j = s.road.sec j) ∧
        (∀ y, s.road.sec n = some y →
          (y.state = .sweep → y.sweepMin = none → new = .known 0 → t.road.sec n = some
            ⟨if s.road.covered s.env n then .closed else .clearable, none, none, none, false⟩ ∧
            t.road.flags = s.road.flags ||| Flag.sectionChange.bit) ∧
          (y.state ≠ .sweep ∨ y.sweepMin ≠ none ∨ new ≠ .known 0 →
            t.road.sec n = some y ∧ t.road.flags = s.road.flags)))) ∧
    (x.state = .working → x.level = some .high → ∃ t, exec (.stuckLimitReached i) s = .next t ∧
      t = { s with road := { s.road.setInput i { x with state := .stuck, timer := none } with
        occ := t.road.occ, flags := s.road.flags ||| Flag.detectorFault.bit } } ∧
      ∀ n, t.road.occOf n = if (s.plan.detector i).assign.any (·.1 == n) then
        (s.road.occOf n).map (fun _ => .unknown) else s.road.occOf n) ∧
    (x.state ≠ .working ∨ x.level ≠ some .high → exec (.stuckLimitReached i) s = .next s)

/-! ### Path watch -/

/-- A MONITOR's status at a path it watches, and the trip window's end. A fault makes the path SILENT; a
status without one takes WAITING and SILENT paths to QUIET with its trip count as baseline; new trips
open or feed the window, and a count at the threshold in force trips: PATH_TRIP, the last action
recorded, and QUIET. The AUTO action of a path that alone has this monitor makes, extends or revives its
closure at the table, with a pin at pass time plus H; one made or revived has its entry in the queue
until that is worked off, and one revived has its copies marked. The window's end drops the trips of a
COUNTING path. A new danger level, which a request on postings or the passing of time brings, has the
trips of an open window tested against the threshold now in force, and a SILENT path act on a rise to its
silent closure level; it leaves every other path as it is (R17, R18, R20, R74, R153 to R161, R163,
R164). -/
def Obligations.PathWatchActs : Prop :=
  ∀ (s : State) (p : Fin 24) (x : PathRec), s.cru.working = true → s.road.path p = some x →
    (x.watch = .counting → exec (.windowRunOut p) s = .next { s with
      road := s.road.setPath p { x with watch := .quiet, timer := none, count := 0 } }) ∧
    (x.watch ≠ .counting → exec (.windowRunOut p) s = .next s) ∧
    (∀ c, actsOnTable c = true → s.road.LinkLaw → ∃ t y, exec c s = .next t ∧
      t.road.path p = some y ∧ ∀ pl, s.plan.path p = some pl → DangerTold t pl x y) ∧
    ∀ (l : Fin 4) (a : Fin 12) (addr trips : Byte) (fault : Bool) (pl : PlanPath) (n T : Nat),
      Flying s l a .poll → addr.toNat = a.val + 1 → (s.road.link ⟨l, a⟩).kind = some .monitor →
      s.plan.path p = some pl → pl.monitor = some ⟨l, a⟩ → T = pl.threshold x.level →
      n = (trips - x.baseline.getD trips).toNat →
      ∃ t y, exec (.status l addr (.monitor trips fault)) s = .next t ∧
        t.road.path p = some y ∧ y.level = x.level ∧
        ∀ acted : Prop, (acted ↔ (∀ m z, s.plan.path m = some z → z.monitor = some ⟨l, a⟩ → m = p) →
            s.cru.passTime + pl.hold ≤ 4294967295 →
            AutoActed s t p pl x.link y.link (s.cru.passTime + pl.hold)) →
        (x.watch = .unwatched → y.watch = .unwatched) ∧
        (fault = true → x.watch ≠ .unwatched → y.watch = .silent ∧
          (x.watch ≠ .silent → y.timer = none ∧ y.count = 0 ∧ y.baseline = none ∧
            hasFlag t.road.flags .pathSilent = true ∧
            (pl.silent ≤ x.level ∨ s.port.mode = .unattended →
              y.last = some (.silent, s.cru.passTime) ∧ acted))) ∧
        (fault = false → x.watch = .waiting ∨ x.watch = .silent →
          y.watch = .quiet ∧ y.timer = none ∧ y.count = 0 ∧ y.baseline = some trips) ∧
        (fault = false → x.watch = .quiet ∨ x.watch = .counting → y.baseline = some trips ∧
          (n = 0 → y.watch = x.watch ∧ y.timer = x.timer ∧ y.count = x.count) ∧
          ∀ k, k = min ((if x.watch = .counting then x.count else 0) + n) 255 → n ≠ 0 →
            (T = 0 ∨ k < T → y.watch = .counting ∧ y.count = k ∧
              y.timer = if x.watch = .counting then x.timer else some 0) ∧
            (T ≠ 0 → T ≤ k → y.watch = .quiet ∧ y.timer = none ∧ y.count = 0 ∧
              hasFlag t.road.flags .pathTrip = true ∧ y.last = some (.trip, s.cru.passTime) ∧ acted))

/-! ### SETTLE and ABORT -/

/-- SETTLE appends its marker and waits BUSY with no reply, the host interval timer stopped; on an empty
queue it is answered SETTLED after 0 seconds at once, and its marker's leaving the head runs the freeing
test. ABORT on a BUSY port and the settle timeout take the marker out and answer ABORTED or TIMEOUT with
the entries that stood ahead of it, an ABORT whatever body it carries; the other entries keep their
order, but those behind it that stand not yet started ahead of it go. ABORT with none waiting is refused
BAD_STATE (R14, R92 to R96, R192, R195, R199; log 20). -/
def Obligations.SettleAndAbort : Prop :=
  ∀ (s : State) (begun : Bool), s.cru.working = true →
    (∀ (body : List Byte) (n : Nat), s.port.state = .ready → s.part = .running →
      readBody (within2 1 600) body = some n →
      (s.road.queue = [] → exec (.settle ⟨body, begun⟩) s = .next
        { (s.replied 0x38 body { code := .settled, body := .waited 0 }) with
          road := Road.freeTest { s.road with work := none, settle := none } }) ∧
      (s.road.queue ≠ [] → headStep s.env s.road = none → exec (.settle ⟨body, begun⟩) s = .next { s with
        port := { s.port with
          state := .busy, timer := none, buffer := 0x38 :: be16 body.length ++ body.take 300,
          out := readyBytes (body.length + 4), overtaken := false },
        road := { s.road with
          queue := s.road.queue ++ [.marker], settle := some { ms := 0, timeout := n } } })) ∧
    (s.port.state = .ready → s.part = .running →
      exec (.abort ⟨[], begun⟩) s = .next (s.replied 0x39 [] (plain .badState))) ∧
    (∀ (c : Instr) (code : Result) (body : List Byte), s.road.QueueLaw →
      (c = .abort ⟨body, begun⟩ ∧ s.port.state = .busy ∧ code = .aborted ∨
        c = .settleTimeout ∧ s.road.settle ≠ none ∧ code = .timeout) →
      ∃ t, exec c s = .next t ∧ t.port.state = .unread ∧
        t.port.reply = some { code := code,
                              body := .ahead (s.road.queue.takeWhile (· != .marker)).length } ∧
        t.port.timer = restartedTimer s.port.mode s.port.interval ∧
        t.port.enables = s.port.enables ∧ t.port.master = s.port.master ∧
        t.port.mode = s.port.mode ∧ t.port.interval = s.port.interval ∧
        (c = .abort ⟨body, begun⟩ → t.port.overtaken = false ∧
          t.port.out = 0x02 :: List.replicate (body.length + 3) 0x00 ∧
          t.port.buffer = 0x39 :: be16 body.length ++ body.take 300) ∧
        (c = .settleTimeout → t.port.overtaken = true ∧ t.port.out = s.port.out ∧
          t.port.buffer = s.port.buffer) ∧
        t.road.settle = none ∧ Entry.marker ∉ t.road.queue ∧
        (s.road.HeadLaw → t.road = { s.road with
          settle := none
          queue := s.road.queue.takeWhile (· != .marker) ++
            (behindMarker s.road.queue).filter fun en =>
              !(s.road.queue.takeWhile (· != .marker)).tail.contains en }) ∧
        t.plan = s.plan ∧ t.part = s.part ∧ t.cru = s.cru ∧ t.pins = s.pins ∧
        t.pending = s.pending ∧ t.road.dir = s.road.dir ∧ t.road.links = s.road.links ∧
        t.road.sections = s.road.sections ∧ t.road.inputs = s.road.inputs ∧
        t.road.occ = s.road.occ ∧ t.road.flags = s.road.flags) ∧
    (s.road.settle = none → exec .settleTimeout s = .next s)

/-! ### Field lines -/

/-- What an answer, a timer or a detector edge of the road blocks leaves alone: plan, part state, clock,
the waiting commands and the port, but for a SETTLE that the event ends; the pins but for an edge's own;
the reserve; every line's exchange and transfer, and every unit's link, but for those of an answer's
own line; the inputs and the occupancy but for an edge or a stuck limit. No STATION posting changes but by
the freeing of a RETIRING one, except where an AMEND_DATA merges, and a timer or an edge changes nothing
of table, directory, queue and links. An exchange that ends, whatever ends it, is followed by the one that
R50 and R51 give: after a POLL a gate order, the transfer in progress or a new one of the head entry, and
with none of them, as after a work exchange, POLL to the next planned address. A new transfer is the one
that the head entry then has for the line: in the fetch phase the fetch of the next slot, in the
reconcile phase the update, placement or clear that the first affected unit with work left is due by
wanted set, ranking and victim order; with none, the line has worked its part or its next unit awaits
report. A fetch set and affected units are fixed as the entry is started and its reconcile phase begins,
and no unit is finished while it has an item. That one work opportunity finds units finished and slots to
be passed over, and looks on at the next head entry when the head leaves, is the model's reading
(log 13, log 14), and that a PENDING posting is no victim its choice (log 35). How the port marks a
transaction that the end of a SETTLE has overtaken is the model's choice too (log 5). On stopped blocks only an
edge's pin changes (R14, R33, R49 to R51, R56, R73, R77, R78, R80 to R85, R93, R105, R187). -/
def Obligations.RoadEventFrame : Prop :=
  ∀ (c : Instr) (s : State), fromRoad c = true → ∃ t, exec c s = .next t ∧ RoadEvent s t ∧
    t.pins = (match c with
      | .detectorRise i => vset s.pins i .high
      | .detectorFall i => vset s.pins i .low
      | _ => s.pins) ∧
    (s.cru.working = false → t = { s with pins := t.pins }) ∧
    t.road.reserve = s.road.reserve ∧
    (s.road.LinkLaw → (∀ l addr base sev text, c ≠ .amendData l addr base sev text) →
      ∀ i, SlotKept s.road t.road i) ∧
    (lineOf c = none → t.road.slots = s.road.slots ∧ t.road.freeLines = s.road.freeLines ∧
      t.road.dir = s.road.dir ∧ t.road.awaiting = s.road.awaiting ∧
      t.road.queue = s.road.queue ∧ t.road.work = s.road.work ∧ t.road.links = s.road.links) ∧
    (∀ l a sent, s.cru.working = true → lineOf c = some l → Flying s l a sent →
      LineGoesOn s.env s.road t.road l sent ∧
      (s.road.HeadLaw → (s.road.queue = [] → s.road.work = none) →
        HeadFixed s.env s.road t.road ∧ HeadPassed s.env s.road t.road fun u =>
          sent = .work ∧ ∃ x, (s.road.line l).transfer = some x ∧ u = ⟨l, x.addr⟩)) ∧
    (∀ l, lineOf c ≠ some l → (t.road.line l).inFlight = (s.road.line l).inFlight ∧
      (t.road.line l).transfer = (s.road.line l).transfer ∧
      (t.road.line l).pointer = (s.road.line l).pointer) ∧
    (∀ u, lineOf c ≠ some u.line → t.road.link u = s.road.link u) ∧
    ((∀ i, c ≠ .detectorRise i ∧ c ≠ .detectorFall i ∧ c ≠ .stuckLimitReached i) →
      t.road.inputs = s.road.inputs ∧ t.road.occ = s.road.occ)

/-- No valid answer is a miss: one more up to three; the transfer's LOAD or COMMIT is tried again, up to
three sends, and any other step ends the transfer with the unit awaiting report. The third miss of a
SEEKING or ONLINE unit makes it LOST: its transfer and gate orders end, its copy slots become UNKNOWN,
and UNIT_LOST is set; the paths that watch it as their monitor become SILENT with PATH_SILENT, and act
at their silent closure level or above and in UNATTENDED, as on a fault; its gate stands at UNKNOWN with
nothing reported. The response time-out is the same event. A failed
transfer appends its unit's entry to the queue or coalesces it, and ends the unit's part in the head
entry; nothing else does, and no entry is appended for a loss but for the closures of a monitor's paths.
That the entry goes to the queue before the head may leave is the model's choice, and so is that the
tries of a LOAD or COMMIT rise in the event of the failure (R44 to R46, R49, R55 to R62, R72, R75, R83,
R85, R87, R127, R155, R160, R163, R164; log 12, log 34, log 41). -/
def Obligations.NoAnswer : Prop :=
  ∀ (s : State) (l : Fin 4) (a : Fin 12) (sent : Sent) (k : Link) (c : Instr),
    s.cru.working = true → Flying s l a sent → k = s.road.link ⟨l, a⟩ →
    c = .noAnswer l ∨ c = .fieldResponseTimeout l →
    (2 ≤ k.misses → k.state = .seeking ∨ k.state = .online → s.part = .running → s.PartLaw →
      ∃ t, exec c s = .next t ∧
        t.road.link ⟨l, a⟩ = { k with state := .lost, misses := 3 } ∧
        t.road.awaits ⟨l, a⟩ = false ∧ (∀ d ∈ t.road.dirOf ⟨l, a⟩, d = .unknown) ∧
        (∀ x, (t.road.line l).transfer = some x → x.addr ≠ a) ∧
        (∀ o ∈ (t.road.line l).orders, o.addr ≠ a) ∧
        (∀ g z, gateOf s.env ⟨l, a⟩ = some g → t.road.gate g = some z → z.pos = .unknown ∧
          z.reported = none ∧ z.key = none ∧ z.phase = .idle ∧ z.timer = none ∧
          z.retried = false) ∧
        hasFlag t.road.flags .unitLost = true ∧
        (∀ p x pl, s.road.path p = some x → s.plan.path p = some pl → pl.monitor = some ⟨l, a⟩ →
          ∃ y, t.road.path p = some y ∧ y.level = x.level ∧
            (x.watch = .unwatched ∨ x.watch = .silent → y = { x with link := y.link }) ∧
            (x.watch ≠ .unwatched → x.watch ≠ .silent →
              y.watch = .silent ∧ y.timer = none ∧ y.count = 0 ∧ y.baseline = none ∧
              hasFlag t.road.flags .pathSilent = true ∧
              (x.level < pl.silent → s.port.mode = .attended → y.last = x.last) ∧
              (pl.silent ≤ x.level ∨ s.port.mode = .unattended →
                y.last = some (.silent, s.cru.passTime) ∧
                (s.road.HeadLaw → s.road.Uncopied ⟨l, a⟩ →
                  (∀ m z, s.plan.path m = some z → z.monitor = some ⟨l, a⟩ → m = p) →
                  s.cru.passTime + pl.hold ≤ 4294967295 →
                  AutoActed s t p pl x.link y.link (s.cru.passTime + pl.hold))))) ∧
        ((∀ p z, s.plan.path p = some z → z.monitor ≠ some ⟨l, a⟩) →
          t.road.queue <:+ s.road.queue) ∧
        (∀ u, u ≠ ⟨l, a⟩ → t.road.link u = s.road.link u)) ∧
    (k.misses < 2 ∨ k.state = .lost ∨ k.state = .unplanned →
      ∃ t, exec c s = .next t ∧
        t.road.link ⟨l, a⟩ = { k with misses := min (k.misses + 1) 3 } ∧
        (∀ u, u ≠ ⟨l, a⟩ → t.road.link u = s.road.link u) ∧ t.road.dir = s.road.dir ∧
        (sent = .poll → t.road.queue <:+ s.road.queue) ∧
        (∀ d, sent = .gateOrder d → t.road.queue = s.road.queue) ∧
        (∀ x, sent = .work → (s.road.line l).transfer = some x →
          ((x.step = .load ∨ x.step = .commit) ∧ x.tries < 2 →
            (t.road.line l).transfer = some { x with tries := x.tries + 1 } ∧
            t.road.queue = s.road.queue) ∧
          (¬ ((x.step = .load ∨ x.step = .commit) ∧ x.tries < 2) →
            (t.road.line l).transfer = none ∧ t.road.awaits ⟨l, x.addr⟩ = true ∧
            (headStep s.env s.road = none → s.road.queue ≠ [] → k.state = .online → x.addr = a →
              FailureCalled s.road t.road ⟨l, a⟩))))

/-- Characters on a line with no exchange in flight are discarded; an answer with another address byte,
of a type the exchange does not expect, or of another kind than planned is no answer (R44, R45, R48). -/
def Obligations.StrayAnswers : Prop :=
  ∀ (s : State) (l : Fin 4),
    ((s.road.line l).inFlight = none → ∀ c, lineOf c = some l → exec c s = .next s) ∧
    ∀ (a : Fin 12) (sent : Sent) (addr : Byte), Flying s l a sent →
      (addr.toNat ≠ a.val + 1 → ∀ rep base sev text, ∀ c ∈ ([.status l addr rep, .ack l addr,
        .ackBurst l addr, .ackSingle l addr, .nak l addr, .amendData l addr base sev text] :
          List Instr), exec c s = exec (.noAnswer l) s) ∧
      (sent = .poll → ∀ base sev text, ∀ c ∈ ([.ack l addr, .ackBurst l addr, .ackSingle l addr,
        .nak l addr, .amendData l addr base sev text] : List Instr),
        exec c s = exec (.noAnswer l) s) ∧
      (sent ≠ .poll → ∀ rep, exec (.status l addr rep) s = exec (.noAnswer l) s) ∧
      (∀ rep, (s.road.link ⟨l, a⟩).kind ≠ some (reportKind rep) →
        exec (.status l addr rep) s = exec (.noAnswer l) s) ∧
      (∀ d base sev text, sent = .gateOrder d → ∀ c ∈ ([.ackBurst l addr, .ackSingle l addr,
        .amendData l addr base sev text] : List Instr), exec c s = exec (.noAnswer l) s) ∧
      (∀ x, sent = .work → (s.road.line l).transfer = some x →
        (∀ im, x.kind = .load im → (∀ base sev text,
            exec (.amendData l addr base sev text) s = exec (.noAnswer l) s) ∧
          (x.step = .load → im.text ≠ [] → exec (.ack l addr) s = exec (.noAnswer l) s) ∧
          (x.step ≠ .load ∨ im.text = [] → exec (.ackBurst l addr) s = exec (.noAnswer l) s ∧
            exec (.ackSingle l addr) s = exec (.noAnswer l) s)) ∧
        (x.kind = .clear → ∀ base sev text, ∀ c ∈ ([.ackBurst l addr, .ackSingle l addr,
          .amendData l addr base sev text] : List Instr), exec c s = exec (.noAnswer l) s) ∧
        (∀ h, x.kind = .fetch h → ∀ c ∈ ([.ack l addr, .ackBurst l addr, .ackSingle l addr] :
          List Instr), exec c s = exec (.noAnswer l) s))

/-- A SIGN's status: the unit is ONLINE with no miss and this as its last status, UNIT_BACK is set on a
return from LOST, its awaiting-report condition clears, and each copy slot is recorded: on a first
status by what is reported, on an ordinary one only where report and record disagree. The posting entry
of each newly amended slot whose handle names a posting goes to the queue in slot order, and then the
unit entry that a first status, a newly amended slot of a stale handle, any other disagreement and a
handle reported twice call for. An entry that has left the queue again has nothing to fetch and no unit
with an item. That a newly amended slot calls for its posting's entry also where another slot keeps its
handle is the model's reading (R46, R48, R53, R71, R74, R75, R85, R88 to R91; log 28). -/
def Obligations.SignStatus : Prop :=
  ∀ (s : State) (l : Fin 4) (a : Fin 12) (addr : Byte) (slots : List SlotReport) (k : Link),
    s.cru.working = true → Flying s l a .poll → addr.toNat = a.val + 1 →
    k = s.road.link ⟨l, a⟩ → k.kind = some .sign → slots.length = 8 →
    ∃ t, exec (.status l addr (.sign slots)) s = .next t ∧
      t.road.link ⟨l, a⟩ = { k with state := .online, misses := 0, last := some (.sign slots) } ∧
      (∀ u, u ≠ ⟨l, a⟩ → t.road.link u = s.road.link u ∧ t.road.dirOf u = s.road.dirOf u) ∧
      t.road.awaits ⟨l, a⟩ = false ∧
      (k.state = .lost → hasFlag t.road.flags .unitBack = true) ∧
      ((slots.filterMap fun x => match x with
          | .empty => none
          | .held h _ _ => some h).Nodup →
        ∀ (n : Nat) (x : SlotReport), slots[n]? = some x →
        (k.state ≠ .online → (t.road.dirOf ⟨l, a⟩)[n]? = some (match x with
          | .empty => .empty
          | .held h v true => .amended h v
          | .held h v false =>
            if s.road.namedState h = some .active ∧ s.road.version h = v then .current h v
            else .behind h v)) ∧
        (∀ c, k.state = .online → (s.road.dirOf ⟨l, a⟩)[n]? = some c →
          (t.road.dirOf ⟨l, a⟩)[n]? = some (match x with
          | .empty => .empty
          | .held h v true => if c.agrees x then c else .amended h v
          | .held h v false => if c.agrees x then c else .behind h v))) ∧
      (headStep s.env s.road = none → (s.road.queue = [] → s.road.work = none) →
        Called s.env s.road t.road l (s.road.reportCalls ⟨l, a⟩ slots))

/-- A GATE's status: reported position and key are recorded, and the position becomes the reported one,
but a JAMMED gate's only for FAULT, for its ordered position, on a turn to LOCAL, or when the event makes
its order anew. GATE_FAULT is set on a turn to FAULT, and by the first FAULT after a
GATE_RETRY also where the gate stood in FAULT (log 36), and GATE_LOCAL on a change of key or a first status
in LOCAL; a gate shut under LOCAL key while its standing order is OPEN has an ACTIVE FIELD closure, which
is made over its section at severity 6, IMMEDIATE and without text or pin when it has none and revived
when it has a RETIRING one, and under REMOTE an ACTIVE one is retired with cause KEY_RETURN. Where its standing order stays, its ordered position or FAULT ends a
travel, another leaves it running under REMOTE, a turn to LOCAL ends it and withdraws the order, and an
IDLE gate that is REMOTE, not JAMMED and away from its ordered position has its order made again. A
report that leaves every entry gate CLOSED ends SHUTTING, and one that leaves every one OPEN ends
OPENING. Its copy slots are recorded and call for entries as a SIGN's are and do, and a FIELD closure
made, revived or retired has its copies marked and its posting entry put behind them (R13, R17, R19, R20,
R53, R71, R74, R75, R88 to R91, R120, R125, R127, R128, R130 to R135; log 28). -/
def Obligations.GateStatusReport : Prop :=
  ∀ (s : State) (l : Fin 4) (a : Fin 12) (addr : Byte) (slots : List SlotReport) (pos : GatePos)
    (key : KeyMode) (g : Fin 16) (x : GateRec),
    s.cru.working = true → Flying s l a .poll → addr.toNat = a.val + 1 →
    (s.road.link ⟨l, a⟩).kind = some .gate → slots.length = 2 → gateOf s.env ⟨l, a⟩ = some g →
    s.road.gate g = some x →
    ∃ t y, exec (.status l addr (.gate slots pos key)) s = .next t ∧
      (t.road.link ⟨l, a⟩).state = .online ∧ (t.road.link ⟨l, a⟩).misses = 0 ∧
      (t.road.link ⟨l, a⟩).last = some (.gate slots pos key) ∧ t.road.gate g = some y ∧
      y.reported = some pos ∧ y.key = some key ∧ (x.pos ≠ .jammed → y.pos = posOfReport pos) ∧
      (x.pos = .jammed →
        (pos = .fault ∨ key = .atPanel ∧ x.key ≠ some .atPanel ∨
          key = .remote ∧ y.standing ≠ x.standing → y.pos = posOfReport pos) ∧
        (pos ≠ .fault → key = .remote ∨ x.key = some .atPanel → y.standing = x.standing →
          y.pos = if pos = x.standing.position then posOfReport pos else .jammed)) ∧
      (pos = .fault → x.pos ≠ .fault ∨ x.retried = true →
        hasFlag t.road.flags .gateFault = true) ∧ y.retried = false ∧
      (x.key ≠ some key → x.key ≠ none ∨ key = .atPanel →
        hasFlag t.road.flags .gateLocal = true) ∧
      (s.road.LinkLaw → key = .atPanel → pos = .closed → x.standing = .toOpen →
        (∃ i, (s.road.slot i).posting = none) → (∃ z, s.plan.sec x.sec = some z) →
        ∃ h p, y.link = some h ∧ t.road.named h = some p ∧ p.authority = .field ∧ p.pin = none ∧
          (p.state = .active ∨ s.road.namedState h = some .pending)) ∧
      (s.road.LinkLaw → key = .remote → ∀ h p, y.link = some h → t.road.named h = some p →
        p.state ≠ .active) ∧
      (s.road.LinkLaw → key = .atPanel → pos = .closed → x.standing = .toOpen →
        (∃ i, (s.road.slot i).posting = none) → ∀ z, s.plan.sec x.sec = some z →
        FieldActed s.road t.road ⟨l, a⟩ z x.link y.link) ∧
      (s.road.LinkLaw → key = .remote → ∀ h q, x.link = some h → s.road.named h = some q →
        q.state = .active → FieldReturned s.road t.road ⟨l, a⟩ h q) ∧
      (s.road.LinkLaw → headStep s.env s.road = none → (s.road.queue = [] → s.road.work = none) →
        (∃ i, (s.road.slot i).posting = none) → (∃ z, s.plan.sec x.sec = some z) →
        ∃ own, Called s.env s.road t.road l (s.road.reportCalls ⟨l, a⟩ slots ++ own) ∧
          ∀ acts returns : Prop,
            (acts ↔ key = .atPanel ∧ pos = .closed ∧ x.standing = .toOpen ∧
              ∀ h q, x.link = some h → s.road.named h = some q → q.state = .retiring) →
            (returns ↔ key = .remote ∧ ∃ h, x.link = some h ∧ s.road.namedState h = some .active) →
            (acts → ∃ h, y.link = some h ∧ own = [.posting h]) ∧
            (returns → ∃ h, x.link = some h ∧ own = [.posting h]) ∧
            (¬ acts → ¬ returns → own = [])) ∧
      (s.part = .running → s.PartLaw → y.standing = x.standing →
        (x.phase = .travelling → pos = x.standing.position ∨ pos = .fault →
          y.phase = .idle ∧ y.timer = none) ∧
        (x.phase = .travelling → key = .remote → pos ≠ x.standing.position → pos ≠ .fault →
          y.phase = .travelling ∧ y.timer = x.timer) ∧
        (x.phase = .pending → key = .remote → y.phase = .pending) ∧
        (key = .atPanel → x.key ≠ some .atPanel → y.phase = .idle ∧ y.timer = none ∧
          ∀ o ∈ (t.road.line l).orders, o.addr ≠ a) ∧
        (key = .remote → pos = .isOpen ∨ pos = .closed → pos ≠ x.standing.position →
          x.phase = .idle → y.pos ≠ .jammed → y.phase = .pending ∧ y.timer = none ∧
          ∃ o ∈ (t.road.line l).orders, o.addr = a ∧ o.dir = x.standing ∧
            o.withdrawn = false)) ∧
      (s.part = .running → s.PartLaw → y.pos ≠ x.pos →
        (s.road.secState x.sec = some .shutting →
          (∀ h ∈ sectionGates s.env x.sec, ∀ z, t.road.gate h = some z → z.pos = .closed) →
          t.road.secState x.sec = some .sweep ∨ t.road.secState x.sec = some .closed ∨
            t.road.secState x.sec = some .clearable) ∧
        (s.road.secState x.sec = some .opening → s.road.CoverLaw s.env →
          (∀ h ∈ sectionGates s.env x.sec, ∀ z, t.road.gate h = some z → z.pos = .isOpen) →
          t.road.secState x.sec = some .isOpen)) ∧
      (∀ u, u ≠ ⟨l, a⟩ → t.road.link u = s.road.link u) ∧ t.road.awaits ⟨l, a⟩ = false ∧
      ((slots.filterMap fun r => match r with
          | .empty => none
          | .held h _ _ => some h).Nodup →
        ∀ (n : Nat) (r : SlotReport) (c new : CopySlot), slots[n]? = some r →
        (s.road.dirOf ⟨l, a⟩)[n]? = some c →
        new = (match r with
          | .empty => .empty
          | .held h v true =>
            if (s.road.link ⟨l, a⟩).state = .online ∧ c.agrees r = true then c else .amended h v
          | .held h v false =>
            if (s.road.link ⟨l, a⟩).state = .online then (if c.agrees r then c else .behind h v)
            else if s.road.namedState h = some .active ∧ s.road.version h = v then .current h v
            else .behind h v) →
        (t.road.dirOf ⟨l, a⟩)[n]? = some new ∨
          x.link ≠ none ∧ new.handle? = x.link ∧
            (t.road.dirOf ⟨l, a⟩)[n]? = some (markedRecord false new))

/-- ACK, ACK_BURST, ACK_SINGLE and NAK, where the exchange expects them. An ACK to a GATE_ORDER starts
the travel of a gate whose pending order it is, a NAK ends it; an ACK to a LOAD without text, a burst or
a text line leads to the next step, ACK_BURST and ACK_SINGLE choose how a LOAD's text goes; an ACK to
COMMIT records the copy, CURRENT only for an ACTIVE posting at its present version, and one to CLEAR
empties the slot; a NAK is one failed try. A failed transfer appends its unit's entry to the queue or
coalesces it, and ends the unit's part in the head entry; so does, the part aside, a copy committed where
another slot of the unit names its posting; no other of these answers does. That the entry goes to the
queue before the head may leave is the model's choice, and so is that the tries of a LOAD or COMMIT rise
in the event of the failure (R55 to R61, R71, R75, R83, R86, R87, R129; log 34, log 41). -/
def Obligations.LineAnswers : Prop :=
  ∀ (s : State) (l : Fin 4) (a : Fin 12) (addr : Byte), s.cru.working = true →
    addr.toNat = a.val + 1 →
    (∀ (d : Order) (g : Fin 16) (x : GateRec) (c : Instr) (ack : Bool), Flying s l a (.gateOrder d) →
      gateOf s.env ⟨l, a⟩ = some g → s.road.gate g = some x →
      (c = .ack l addr ∧ ack = true ∨ c = .nak l addr ∧ ack = false) →
      ∃ t y, exec c s = .next t ∧ (t.road.link ⟨l, a⟩).misses = 0 ∧ t.road.gate g = some y ∧
        (y.standing = x.standing →
          (d = x.standing → x.phase = .pending → y = { x with
            phase := if ack then .travelling else .idle, timer := if ack then some 0 else none }) ∧
          (d ≠ x.standing ∨ x.phase ≠ .pending → y = x)) ∧
        t.road.queue = s.road.queue ∧
        ((∀ i, s.road.secState i ≠ some .notice) →
          (∀ o ∈ (s.road.line l).orders, o.addr = a → o.replaced = false ∨ o.withdrawn = true) →
          ∀ o, o ∈ (t.road.line l).orders ↔ o ∈ (s.road.line l).orders ∧ o.addr ≠ a)) ∧
    (∀ x : Transfer, Flying s l a .work → (s.road.line l).transfer = some x → x.addr = a →
      (∀ im, x.kind = .load im →
        (∀ next, (x.step = .load ∧ im.text = [] ∧ next = .commit ∨
            x.step = .burst ∧ next = .commit ∨
            (∃ i, x.step = .line i ∧
              next = if i + 1 < im.text.length then .line (i + 1) else .commit)) →
          ∃ t, exec (.ack l addr) s = .next t ∧ (t.road.link ⟨l, a⟩).misses = 0 ∧
            (t.road.line l).transfer = some { x with step := next, tries := 0 } ∧
            t.road.dir = s.road.dir ∧ t.road.queue = s.road.queue) ∧
        (x.step = .load → im.text ≠ [] → ∀ c next, (c = .ackBurst l addr ∧ next = .burst ∨
            c = .ackSingle l addr ∧ next = .line 0) →
          ∃ t, exec c s = .next t ∧ (t.road.link ⟨l, a⟩).misses = 0 ∧
            (t.road.line l).transfer = some { x with step := next, tries := 0 } ∧
            t.road.dir = s.road.dir ∧ t.road.queue = s.road.queue) ∧
        (x.step = .commit → ∃ t, exec (.ack l addr) s = .next t ∧
          (t.road.link ⟨l, a⟩).misses = 0 ∧ (t.road.line l).transfer = none ∧
          (∀ n c, (s.road.dirOf ⟨l, a⟩)[n]? = some c → (t.road.dirOf ⟨l, a⟩)[n]? =
            some (if n = x.slot then
              (if s.road.namedState im.handle = some .active ∧
                  s.road.version im.handle = im.version then .current im.handle im.version
                else .behind im.handle im.version)
              else if c.handle? = some im.handle then .empty else c)) ∧
          (headStep s.env s.road = none → s.road.queue ≠ [] → ∀ twice : Prop,
            (twice ↔ ∃ (n : Nat) (c : CopySlot), (s.road.dirOf ⟨l, a⟩)[n]? = some c ∧ n ≠ x.slot ∧
              c.handle? = some im.handle) →
            (twice → t.road.queue = joined s.road.queue (.unit ⟨l, a⟩)) ∧
            (¬ twice → t.road.queue = s.road.queue)) ∧
          (∀ u, u ≠ ⟨l, a⟩ → t.road.dirOf u = s.road.dirOf u))) ∧
      (x.kind = .clear → x.step = .clear → ∃ t, exec (.ack l addr) s = .next t ∧
        (t.road.link ⟨l, a⟩).misses = 0 ∧ (t.road.line l).transfer = none ∧
        (∀ n c, (s.road.dirOf ⟨l, a⟩)[n]? = some c →
          (t.road.dirOf ⟨l, a⟩)[n]? = some (if n = x.slot then .empty else c)) ∧
        t.road.queue = s.road.queue ∧
        (∀ u, u ≠ ⟨l, a⟩ → t.road.dirOf u = s.road.dirOf u)) ∧
      ∃ t, exec (.nak l addr) s = .next t ∧ (t.road.link ⟨l, a⟩).misses = 0 ∧
        t.road.dir = s.road.dir ∧
        ((x.step = .load ∨ x.step = .commit) ∧ x.tries < 2 →
          (t.road.line l).transfer = some { x with tries := x.tries + 1 } ∧
          t.road.queue = s.road.queue) ∧
        (¬ ((x.step = .load ∨ x.step = .commit) ∧ x.tries < 2) →
          (t.road.line l).transfer = none ∧ t.road.awaits ⟨l, a⟩ = true ∧
          (headStep s.env s.road = none → s.road.queue ≠ [] → s.road.online ⟨l, a⟩ = true →
            FailureCalled s.road t.road ⟨l, a⟩)))

/-- AMEND_DATA to a FETCH: the transfer ends, and a slot still AMENDED for the fetched handle becomes
OVERRULED. The amendment is merged when the handle names an ACTIVE STATION posting at the base version
and its text suits and fits: version up by one, severity and text replaced where given, the unit
recorded as last field source, AMEND_MERGED, and no other STATION posting changes but by the freeing of a
RETIRING one; the posting's other copies are marked, CURRENT to BEHIND, and its entry goes to the queue.
Otherwise it is discarded: AMEND_DISCARDED, and no posting
and no version changes but for a RETIRING posting that the event frees, no other copy changes, and no
entry is appended (R17, R62, R75, R79, R102 to R104). -/
def Obligations.AmendDataActs : Prop :=
  ∀ (s : State) (l : Fin 4) (a : Fin 12) (addr base : Byte) (sev : Option Nat)
    (text : Option (List (List Byte))) (x : Transfer) (h : Handle) (c : CopySlot),
    s.cru.working = true → addr.toNat = a.val + 1 → Flying s l a .work →
    (s.road.line l).transfer = some x → x.addr = a → x.kind = .fetch h → sev.all (· ≤ 7) = true →
    text.all goodText = true → (s.road.dirOf ⟨l, a⟩)[x.slot]? = some c →
    ∃ t, exec (.amendData l addr base sev text) s = .next t ∧
      (t.road.link ⟨l, a⟩).misses = 0 ∧ (t.road.line l).transfer = none ∧
      (∀ v, c = .amended h v → (t.road.dirOf ⟨l, a⟩)[x.slot]? = some (.overruled h v)) ∧
      (∀ p v, c = .amended h v → s.road.named h = some p → p.state = .active →
        p.authority = .station → base = s.road.version h →
        (∀ y, text = some y → (p.kind = .notice → y ≠ []) ∧
          y.length ≤ s.road.freeLines + p.text.length) →
        t.road.slot h.slot = { gen := h.gen, version := base + 1,
                               posting := some { p with severity := sev.getD p.severity,
                                                        text := text.getD p.text,
                                                        source := some ⟨l, a⟩ } } ∧
        hasFlag t.road.flags .amendMerged = true ∧
        (∀ (u : UnitId) (n : Nat) (d : CopySlot), (s.road.dirOf u)[n]? = some d →
          u ≠ ⟨l, a⟩ ∨ n ≠ x.slot → (t.road.dirOf u)[n]? =
            some (if d.handle? = some h then markedRecord false d else d)) ∧
        (headStep s.env s.road = none → (s.road.queue = [] → s.road.work = none) →
          t.road.queue <:+ joined s.road.queue (.posting h) ∧
          (.posting h ∈ t.road.queue ∨ WorkedOff s.env t.road (.posting h)) ∧
          ((s.road.LeftFor fun u => u ≠ ⟨l, a⟩) →
            t.road.queue = joined s.road.queue (.posting h))) ∧
        ∀ i, i ≠ h.slot → SlotKept s.road t.road i) ∧
      ((∀ v, c ≠ .amended h v) ∨ (∀ p, s.road.named h = some p → p.state ≠ .active ∨
          p.authority ≠ .station ∨ base ≠ s.road.version h ∨ ∃ y, text = some y ∧
            (p.kind = .notice ∧ y = [] ∨ s.road.freeLines + p.text.length < y.length)) →
        hasFlag t.road.flags .amendDiscarded = true ∧ t.road.queue <:+ s.road.queue ∧
        (∀ (u : UnitId) (n : Nat), u ≠ ⟨l, a⟩ ∨ n ≠ x.slot →
          (t.road.dirOf u)[n]? = (s.road.dirOf u)[n]?) ∧
        ∀ i, t.road.slot i = s.road.slot i ∨
          (∃ p, (s.road.slot i).posting = some p ∧ p.state = .retiring) ∧
            t.road.slot i = { s.road.slot i with posting := none })

end
end

