-- ==== Sys2Proof/Laws/State.lean ====
section
/-! SUPPORT. What each named update of the state leaves alone: one lemma for each field it does not
write, all true by rfl. -/

namespace Sys2Proof.Machine

/-! ### Road -/

@[simp] theorem setSlot_freeLines (r : Road) (i : Fin 256) (x : Slot) : (r.setSlot i x).freeLines = r.freeLines := rfl
@[simp] theorem setSlot_reserve (r : Road) (i : Fin 256) (x : Slot) : (r.setSlot i x).reserve = r.reserve := rfl
@[simp] theorem setSlot_dir (r : Road) (i : Fin 256) (x : Slot) : (r.setSlot i x).dir = r.dir := rfl
@[simp] theorem setSlot_awaiting (r : Road) (i : Fin 256) (x : Slot) : (r.setSlot i x).awaiting = r.awaiting := rfl
@[simp] theorem setSlot_queue (r : Road) (i : Fin 256) (x : Slot) : (r.setSlot i x).queue = r.queue := rfl
@[simp] theorem setSlot_work (r : Road) (i : Fin 256) (x : Slot) : (r.setSlot i x).work = r.work := rfl
@[simp] theorem setSlot_settle (r : Road) (i : Fin 256) (x : Slot) : (r.setSlot i x).settle = r.settle := rfl
@[simp] theorem setSlot_links (r : Road) (i : Fin 256) (x : Slot) : (r.setSlot i x).links = r.links := rfl
@[simp] theorem setSlot_lines (r : Road) (i : Fin 256) (x : Slot) : (r.setSlot i x).lines = r.lines := rfl
@[simp] theorem setSlot_sections (r : Road) (i : Fin 256) (x : Slot) : (r.setSlot i x).sections = r.sections := rfl
@[simp] theorem setSlot_gates (r : Road) (i : Fin 256) (x : Slot) : (r.setSlot i x).gates = r.gates := rfl
@[simp] theorem setSlot_inputs (r : Road) (i : Fin 256) (x : Slot) : (r.setSlot i x).inputs = r.inputs := rfl
@[simp] theorem setSlot_occ (r : Road) (i : Fin 256) (x : Slot) : (r.setSlot i x).occ = r.occ := rfl
@[simp] theorem setSlot_paths (r : Road) (i : Fin 256) (x : Slot) : (r.setSlot i x).paths = r.paths := rfl
@[simp] theorem setSlot_flags (r : Road) (i : Fin 256) (x : Slot) : (r.setSlot i x).flags = r.flags := rfl
@[simp] theorem setSlot_fresh (r : Road) (i : Fin 256) (x : Slot) : (r.setSlot i x).fresh = r.fresh := rfl

@[simp] theorem setDirOf_slots (r : Road) (u : UnitId) (x : List CopySlot) : (r.setDirOf u x).slots = r.slots := rfl
@[simp] theorem setDirOf_freeLines (r : Road) (u : UnitId) (x : List CopySlot) : (r.setDirOf u x).freeLines = r.freeLines := rfl
@[simp] theorem setDirOf_reserve (r : Road) (u : UnitId) (x : List CopySlot) : (r.setDirOf u x).reserve = r.reserve := rfl
@[simp] theorem setDirOf_awaiting (r : Road) (u : UnitId) (x : List CopySlot) : (r.setDirOf u x).awaiting = r.awaiting := rfl
@[simp] theorem setDirOf_queue (r : Road) (u : UnitId) (x : List CopySlot) : (r.setDirOf u x).queue = r.queue := rfl
@[simp] theorem setDirOf_work (r : Road) (u : UnitId) (x : List CopySlot) : (r.setDirOf u x).work = r.work := rfl
@[simp] theorem setDirOf_settle (r : Road) (u : UnitId) (x : List CopySlot) : (r.setDirOf u x).settle = r.settle := rfl
@[simp] theorem setDirOf_links (r : Road) (u : UnitId) (x : List CopySlot) : (r.setDirOf u x).links = r.links := rfl
@[simp] theorem setDirOf_lines (r : Road) (u : UnitId) (x : List CopySlot) : (r.setDirOf u x).lines = r.lines := rfl
@[simp] theorem setDirOf_sections (r : Road) (u : UnitId) (x : List CopySlot) : (r.setDirOf u x).sections = r.sections := rfl
@[simp] theorem setDirOf_gates (r : Road) (u : UnitId) (x : List CopySlot) : (r.setDirOf u x).gates = r.gates := rfl
@[simp] theorem setDirOf_inputs (r : Road) (u : UnitId) (x : List CopySlot) : (r.setDirOf u x).inputs = r.inputs := rfl
@[simp] theorem setDirOf_occ (r : Road) (u : UnitId) (x : List CopySlot) : (r.setDirOf u x).occ = r.occ := rfl
@[simp] theorem setDirOf_paths (r : Road) (u : UnitId) (x : List CopySlot) : (r.setDirOf u x).paths = r.paths := rfl
@[simp] theorem setDirOf_flags (r : Road) (u : UnitId) (x : List CopySlot) : (r.setDirOf u x).flags = r.flags := rfl
@[simp] theorem setDirOf_fresh (r : Road) (u : UnitId) (x : List CopySlot) : (r.setDirOf u x).fresh = r.fresh := rfl

@[simp] theorem setCopy_slots (r : Road) (u : UnitId) (n : Nat) (c : CopySlot) : (r.setCopy u n c).slots = r.slots := rfl
@[simp] theorem setCopy_freeLines (r : Road) (u : UnitId) (n : Nat) (c : CopySlot) : (r.setCopy u n c).freeLines = r.freeLines := rfl
@[simp] theorem setCopy_reserve (r : Road) (u : UnitId) (n : Nat) (c : CopySlot) : (r.setCopy u n c).reserve = r.reserve := rfl
@[simp] theorem setCopy_awaiting (r : Road) (u : UnitId) (n : Nat) (c : CopySlot) : (r.setCopy u n c).awaiting = r.awaiting := rfl
@[simp] theorem setCopy_queue (r : Road) (u : UnitId) (n : Nat) (c : CopySlot) : (r.setCopy u n c).queue = r.queue := rfl
@[simp] theorem setCopy_work (r : Road) (u : UnitId) (n : Nat) (c : CopySlot) : (r.setCopy u n c).work = r.work := rfl
@[simp] theorem setCopy_settle (r : Road) (u : UnitId) (n : Nat) (c : CopySlot) : (r.setCopy u n c).settle = r.settle := rfl
@[simp] theorem setCopy_links (r : Road) (u : UnitId) (n : Nat) (c : CopySlot) : (r.setCopy u n c).links = r.links := rfl
@[simp] theorem setCopy_lines (r : Road) (u : UnitId) (n : Nat) (c : CopySlot) : (r.setCopy u n c).lines = r.lines := rfl
@[simp] theorem setCopy_sections (r : Road) (u : UnitId) (n : Nat) (c : CopySlot) : (r.setCopy u n c).sections = r.sections := rfl
@[simp] theorem setCopy_gates (r : Road) (u : UnitId) (n : Nat) (c : CopySlot) : (r.setCopy u n c).gates = r.gates := rfl
@[simp] theorem setCopy_inputs (r : Road) (u : UnitId) (n : Nat) (c : CopySlot) : (r.setCopy u n c).inputs = r.inputs := rfl
@[simp] theorem setCopy_occ (r : Road) (u : UnitId) (n : Nat) (c : CopySlot) : (r.setCopy u n c).occ = r.occ := rfl
@[simp] theorem setCopy_paths (r : Road) (u : UnitId) (n : Nat) (c : CopySlot) : (r.setCopy u n c).paths = r.paths := rfl
@[simp] theorem setCopy_flags (r : Road) (u : UnitId) (n : Nat) (c : CopySlot) : (r.setCopy u n c).flags = r.flags := rfl
@[simp] theorem setCopy_fresh (r : Road) (u : UnitId) (n : Nat) (c : CopySlot) : (r.setCopy u n c).fresh = r.fresh := rfl

@[simp] theorem setAwaits_slots (r : Road) (u : UnitId) (b : Bool) : (r.setAwaits u b).slots = r.slots := rfl
@[simp] theorem setAwaits_freeLines (r : Road) (u : UnitId) (b : Bool) : (r.setAwaits u b).freeLines = r.freeLines := rfl
@[simp] theorem setAwaits_reserve (r : Road) (u : UnitId) (b : Bool) : (r.setAwaits u b).reserve = r.reserve := rfl
@[simp] theorem setAwaits_dir (r : Road) (u : UnitId) (b : Bool) : (r.setAwaits u b).dir = r.dir := rfl
@[simp] theorem setAwaits_queue (r : Road) (u : UnitId) (b : Bool) : (r.setAwaits u b).queue = r.queue := rfl
@[simp] theorem setAwaits_work (r : Road) (u : UnitId) (b : Bool) : (r.setAwaits u b).work = r.work := rfl
@[simp] theorem setAwaits_settle (r : Road) (u : UnitId) (b : Bool) : (r.setAwaits u b).settle = r.settle := rfl
@[simp] theorem setAwaits_links (r : Road) (u : UnitId) (b : Bool) : (r.setAwaits u b).links = r.links := rfl
@[simp] theorem setAwaits_lines (r : Road) (u : UnitId) (b : Bool) : (r.setAwaits u b).lines = r.lines := rfl
@[simp] theorem setAwaits_sections (r : Road) (u : UnitId) (b : Bool) : (r.setAwaits u b).sections = r.sections := rfl
@[simp] theorem setAwaits_gates (r : Road) (u : UnitId) (b : Bool) : (r.setAwaits u b).gates = r.gates := rfl
@[simp] theorem setAwaits_inputs (r : Road) (u : UnitId) (b : Bool) : (r.setAwaits u b).inputs = r.inputs := rfl
@[simp] theorem setAwaits_occ (r : Road) (u : UnitId) (b : Bool) : (r.setAwaits u b).occ = r.occ := rfl
@[simp] theorem setAwaits_paths (r : Road) (u : UnitId) (b : Bool) : (r.setAwaits u b).paths = r.paths := rfl
@[simp] theorem setAwaits_flags (r : Road) (u : UnitId) (b : Bool) : (r.setAwaits u b).flags = r.flags := rfl
@[simp] theorem setAwaits_fresh (r : Road) (u : UnitId) (b : Bool) : (r.setAwaits u b).fresh = r.fresh := rfl

@[simp] theorem setLink_slots (r : Road) (u : UnitId) (x : Link) : (r.setLink u x).slots = r.slots := rfl
@[simp] theorem setLink_freeLines (r : Road) (u : UnitId) (x : Link) : (r.setLink u x).freeLines = r.freeLines := rfl
@[simp] theorem setLink_reserve (r : Road) (u : UnitId) (x : Link) : (r.setLink u x).reserve = r.reserve := rfl
@[simp] theorem setLink_dir (r : Road) (u : UnitId) (x : Link) : (r.setLink u x).dir = r.dir := rfl
@[simp] theorem setLink_awaiting (r : Road) (u : UnitId) (x : Link) : (r.setLink u x).awaiting = r.awaiting := rfl
@[simp] theorem setLink_queue (r : Road) (u : UnitId) (x : Link) : (r.setLink u x).queue = r.queue := rfl
@[simp] theorem setLink_work (r : Road) (u : UnitId) (x : Link) : (r.setLink u x).work = r.work := rfl
@[simp] theorem setLink_settle (r : Road) (u : UnitId) (x : Link) : (r.setLink u x).settle = r.settle := rfl
@[simp] theorem setLink_lines (r : Road) (u : UnitId) (x : Link) : (r.setLink u x).lines = r.lines := rfl
@[simp] theorem setLink_sections (r : Road) (u : UnitId) (x : Link) : (r.setLink u x).sections = r.sections := rfl
@[simp] theorem setLink_gates (r : Road) (u : UnitId) (x : Link) : (r.setLink u x).gates = r.gates := rfl
@[simp] theorem setLink_inputs (r : Road) (u : UnitId) (x : Link) : (r.setLink u x).inputs = r.inputs := rfl
@[simp] theorem setLink_occ (r : Road) (u : UnitId) (x : Link) : (r.setLink u x).occ = r.occ := rfl
@[simp] theorem setLink_paths (r : Road) (u : UnitId) (x : Link) : (r.setLink u x).paths = r.paths := rfl
@[simp] theorem setLink_flags (r : Road) (u : UnitId) (x : Link) : (r.setLink u x).flags = r.flags := rfl
@[simp] theorem setLink_fresh (r : Road) (u : UnitId) (x : Link) : (r.setLink u x).fresh = r.fresh := rfl

@[simp] theorem setLine_slots (r : Road) (l : Fin 4) (x : Line) : (r.setLine l x).slots = r.slots := rfl
@[simp] theorem setLine_freeLines (r : Road) (l : Fin 4) (x : Line) : (r.setLine l x).freeLines = r.freeLines := rfl
@[simp] theorem setLine_reserve (r : Road) (l : Fin 4) (x : Line) : (r.setLine l x).reserve = r.reserve := rfl
@[simp] theorem setLine_dir (r : Road) (l : Fin 4) (x : Line) : (r.setLine l x).dir = r.dir := rfl
@[simp] theorem setLine_awaiting (r : Road) (l : Fin 4) (x : Line) : (r.setLine l x).awaiting = r.awaiting := rfl
@[simp] theorem setLine_queue (r : Road) (l : Fin 4) (x : Line) : (r.setLine l x).queue = r.queue := rfl
@[simp] theorem setLine_work (r : Road) (l : Fin 4) (x : Line) : (r.setLine l x).work = r.work := rfl
@[simp] theorem setLine_settle (r : Road) (l : Fin 4) (x : Line) : (r.setLine l x).settle = r.settle := rfl
@[simp] theorem setLine_links (r : Road) (l : Fin 4) (x : Line) : (r.setLine l x).links = r.links := rfl
@[simp] theorem setLine_sections (r : Road) (l : Fin 4) (x : Line) : (r.setLine l x).sections = r.sections := rfl
@[simp] theorem setLine_gates (r : Road) (l : Fin 4) (x : Line) : (r.setLine l x).gates = r.gates := rfl
@[simp] theorem setLine_inputs (r : Road) (l : Fin 4) (x : Line) : (r.setLine l x).inputs = r.inputs := rfl
@[simp] theorem setLine_occ (r : Road) (l : Fin 4) (x : Line) : (r.setLine l x).occ = r.occ := rfl
@[simp] theorem setLine_paths (r : Road) (l : Fin 4) (x : Line) : (r.setLine l x).paths = r.paths := rfl
@[simp] theorem setLine_flags (r : Road) (l : Fin 4) (x : Line) : (r.setLine l x).flags = r.flags := rfl
@[simp] theorem setLine_fresh (r : Road) (l : Fin 4) (x : Line) : (r.setLine l x).fresh = r.fresh := rfl

@[simp] theorem setSec_slots (r : Road) (i : Fin 8) (x : SectionRec) : (r.setSec i x).slots = r.slots := rfl
@[simp] theorem setSec_freeLines (r : Road) (i : Fin 8) (x : SectionRec) : (r.setSec i x).freeLines = r.freeLines := rfl
@[simp] theorem setSec_reserve (r : Road) (i : Fin 8) (x : SectionRec) : (r.setSec i x).reserve = r.reserve := rfl
@[simp] theorem setSec_dir (r : Road) (i : Fin 8) (x : SectionRec) : (r.setSec i x).dir = r.dir := rfl
@[simp] theorem setSec_awaiting (r : Road) (i : Fin 8) (x : SectionRec) : (r.setSec i x).awaiting = r.awaiting := rfl
@[simp] theorem setSec_queue (r : Road) (i : Fin 8) (x : SectionRec) : (r.setSec i x).queue = r.queue := rfl
@[simp] theorem setSec_work (r : Road) (i : Fin 8) (x : SectionRec) : (r.setSec i x).work = r.work := rfl
@[simp] theorem setSec_settle (r : Road) (i : Fin 8) (x : SectionRec) : (r.setSec i x).settle = r.settle := rfl
@[simp] theorem setSec_links (r : Road) (i : Fin 8) (x : SectionRec) : (r.setSec i x).links = r.links := rfl
@[simp] theorem setSec_lines (r : Road) (i : Fin 8) (x : SectionRec) : (r.setSec i x).lines = r.lines := rfl
@[simp] theorem setSec_gates (r : Road) (i : Fin 8) (x : SectionRec) : (r.setSec i x).gates = r.gates := rfl
@[simp] theorem setSec_inputs (r : Road) (i : Fin 8) (x : SectionRec) : (r.setSec i x).inputs = r.inputs := rfl
@[simp] theorem setSec_occ (r : Road) (i : Fin 8) (x : SectionRec) : (r.setSec i x).occ = r.occ := rfl
@[simp] theorem setSec_paths (r : Road) (i : Fin 8) (x : SectionRec) : (r.setSec i x).paths = r.paths := rfl
@[simp] theorem setSec_flags (r : Road) (i : Fin 8) (x : SectionRec) : (r.setSec i x).flags = r.flags := rfl
@[simp] theorem setSec_fresh (r : Road) (i : Fin 8) (x : SectionRec) : (r.setSec i x).fresh = r.fresh := rfl

@[simp] theorem setGate_slots (r : Road) (g : Fin 16) (x : GateRec) : (r.setGate g x).slots = r.slots := rfl
@[simp] theorem setGate_freeLines (r : Road) (g : Fin 16) (x : GateRec) : (r.setGate g x).freeLines = r.freeLines := rfl
@[simp] theorem setGate_reserve (r : Road) (g : Fin 16) (x : GateRec) : (r.setGate g x).reserve = r.reserve := rfl
@[simp] theorem setGate_dir (r : Road) (g : Fin 16) (x : GateRec) : (r.setGate g x).dir = r.dir := rfl
@[simp] theorem setGate_awaiting (r : Road) (g : Fin 16) (x : GateRec) : (r.setGate g x).awaiting = r.awaiting := rfl
@[simp] theorem setGate_queue (r : Road) (g : Fin 16) (x : GateRec) : (r.setGate g x).queue = r.queue := rfl
@[simp] theorem setGate_work (r : Road) (g : Fin 16) (x : GateRec) : (r.setGate g x).work = r.work := rfl
@[simp] theorem setGate_settle (r : Road) (g : Fin 16) (x : GateRec) : (r.setGate g x).settle = r.settle := rfl
@[simp] theorem setGate_links (r : Road) (g : Fin 16) (x : GateRec) : (r.setGate g x).links = r.links := rfl
@[simp] theorem setGate_lines (r : Road) (g : Fin 16) (x : GateRec) : (r.setGate g x).lines = r.lines := rfl
@[simp] theorem setGate_sections (r : Road) (g : Fin 16) (x : GateRec) : (r.setGate g x).sections = r.sections := rfl
@[simp] theorem setGate_inputs (r : Road) (g : Fin 16) (x : GateRec) : (r.setGate g x).inputs = r.inputs := rfl
@[simp] theorem setGate_occ (r : Road) (g : Fin 16) (x : GateRec) : (r.setGate g x).occ = r.occ := rfl
@[simp] theorem setGate_paths (r : Road) (g : Fin 16) (x : GateRec) : (r.setGate g x).paths = r.paths := rfl
@[simp] theorem setGate_flags (r : Road) (g : Fin 16) (x : GateRec) : (r.setGate g x).flags = r.flags := rfl
@[simp] theorem setGate_fresh (r : Road) (g : Fin 16) (x : GateRec) : (r.setGate g x).fresh = r.fresh := rfl

@[simp] theorem setInput_slots (r : Road) (i : Fin 16) (x : InputRec) : (r.setInput i x).slots = r.slots := rfl
@[simp] theorem setInput_freeLines (r : Road) (i : Fin 16) (x : InputRec) : (r.setInput i x).freeLines = r.freeLines := rfl
@[simp] theorem setInput_reserve (r : Road) (i : Fin 16) (x : InputRec) : (r.setInput i x).reserve = r.reserve := rfl
@[simp] theorem setInput_dir (r : Road) (i : Fin 16) (x : InputRec) : (r.setInput i x).dir = r.dir := rfl
@[simp] theorem setInput_awaiting (r : Road) (i : Fin 16) (x : InputRec) : (r.setInput i x).awaiting = r.awaiting := rfl
@[simp] theorem setInput_queue (r : Road) (i : Fin 16) (x : InputRec) : (r.setInput i x).queue = r.queue := rfl
@[simp] theorem setInput_work (r : Road) (i : Fin 16) (x : InputRec) : (r.setInput i x).work = r.work := rfl
@[simp] theorem setInput_settle (r : Road) (i : Fin 16) (x : InputRec) : (r.setInput i x).settle = r.settle := rfl
@[simp] theorem setInput_links (r : Road) (i : Fin 16) (x : InputRec) : (r.setInput i x).links = r.links := rfl
@[simp] theorem setInput_lines (r : Road) (i : Fin 16) (x : InputRec) : (r.setInput i x).lines = r.lines := rfl
@[simp] theorem setInput_sections (r : Road) (i : Fin 16) (x : InputRec) : (r.setInput i x).sections = r.sections := rfl
@[simp] theorem setInput_gates (r : Road) (i : Fin 16) (x : InputRec) : (r.setInput i x).gates = r.gates := rfl
@[simp] theorem setInput_occ (r : Road) (i : Fin 16) (x : InputRec) : (r.setInput i x).occ = r.occ := rfl
@[simp] theorem setInput_paths (r : Road) (i : Fin 16) (x : InputRec) : (r.setInput i x).paths = r.paths := rfl
@[simp] theorem setInput_flags (r : Road) (i : Fin 16) (x : InputRec) : (r.setInput i x).flags = r.flags := rfl
@[simp] theorem setInput_fresh (r : Road) (i : Fin 16) (x : InputRec) : (r.setInput i x).fresh = r.fresh := rfl

@[simp] theorem setOcc_slots (r : Road) (i : Fin 8) (x : Occ) : (r.setOcc i x).slots = r.slots := rfl
@[simp] theorem setOcc_freeLines (r : Road) (i : Fin 8) (x : Occ) : (r.setOcc i x).freeLines = r.freeLines := rfl
@[simp] theorem setOcc_reserve (r : Road) (i : Fin 8) (x : Occ) : (r.setOcc i x).reserve = r.reserve := rfl
@[simp] theorem setOcc_dir (r : Road) (i : Fin 8) (x : Occ) : (r.setOcc i x).dir = r.dir := rfl
@[simp] theorem setOcc_awaiting (r : Road) (i : Fin 8) (x : Occ) : (r.setOcc i x).awaiting = r.awaiting := rfl
@[simp] theorem setOcc_queue (r : Road) (i : Fin 8) (x : Occ) : (r.setOcc i x).queue = r.queue := rfl
@[simp] theorem setOcc_work (r : Road) (i : Fin 8) (x : Occ) : (r.setOcc i x).work = r.work := rfl
@[simp] theorem setOcc_settle (r : Road) (i : Fin 8) (x : Occ) : (r.setOcc i x).settle = r.settle := rfl
@[simp] theorem setOcc_links (r : Road) (i : Fin 8) (x : Occ) : (r.setOcc i x).links = r.links := rfl
@[simp] theorem setOcc_lines (r : Road) (i : Fin 8) (x : Occ) : (r.setOcc i x).lines = r.lines := rfl
@[simp] theorem setOcc_sections (r : Road) (i : Fin 8) (x : Occ) : (r.setOcc i x).sections = r.sections := rfl
@[simp] theorem setOcc_gates (r : Road) (i : Fin 8) (x : Occ) : (r.setOcc i x).gates = r.gates := rfl
@[simp] theorem setOcc_inputs (r : Road) (i : Fin 8) (x : Occ) : (r.setOcc i x).inputs = r.inputs := rfl
@[simp] theorem setOcc_paths (r : Road) (i : Fin 8) (x : Occ) : (r.setOcc i x).paths = r.paths := rfl
@[simp] theorem setOcc_flags (r : Road) (i : Fin 8) (x : Occ) : (r.setOcc i x).flags = r.flags := rfl
@[simp] theorem setOcc_fresh (r : Road) (i : Fin 8) (x : Occ) : (r.setOcc i x).fresh = r.fresh := rfl

@[simp] theorem setPath_slots (r : Road) (p : Fin 24) (x : PathRec) : (r.setPath p x).slots = r.slots := rfl
@[simp] theorem setPath_freeLines (r : Road) (p : Fin 24) (x : PathRec) : (r.setPath p x).freeLines = r.freeLines := rfl
@[simp] theorem setPath_reserve (r : Road) (p : Fin 24) (x : PathRec) : (r.setPath p x).reserve = r.reserve := rfl
@[simp] theorem setPath_dir (r : Road) (p : Fin 24) (x : PathRec) : (r.setPath p x).dir = r.dir := rfl
@[simp] theorem setPath_awaiting (r : Road) (p : Fin 24) (x : PathRec) : (r.setPath p x).awaiting = r.awaiting := rfl
@[simp] theorem setPath_queue (r : Road) (p : Fin 24) (x : PathRec) : (r.setPath p x).queue = r.queue := rfl
@[simp] theorem setPath_work (r : Road) (p : Fin 24) (x : PathRec) : (r.setPath p x).work = r.work := rfl
@[simp] theorem setPath_settle (r : Road) (p : Fin 24) (x : PathRec) : (r.setPath p x).settle = r.settle := rfl
@[simp] theorem setPath_links (r : Road) (p : Fin 24) (x : PathRec) : (r.setPath p x).links = r.links := rfl
@[simp] theorem setPath_lines (r : Road) (p : Fin 24) (x : PathRec) : (r.setPath p x).lines = r.lines := rfl
@[simp] theorem setPath_sections (r : Road) (p : Fin 24) (x : PathRec) : (r.setPath p x).sections = r.sections := rfl
@[simp] theorem setPath_gates (r : Road) (p : Fin 24) (x : PathRec) : (r.setPath p x).gates = r.gates := rfl
@[simp] theorem setPath_inputs (r : Road) (p : Fin 24) (x : PathRec) : (r.setPath p x).inputs = r.inputs := rfl
@[simp] theorem setPath_occ (r : Road) (p : Fin 24) (x : PathRec) : (r.setPath p x).occ = r.occ := rfl
@[simp] theorem setPath_flags (r : Road) (p : Fin 24) (x : PathRec) : (r.setPath p x).flags = r.flags := rfl
@[simp] theorem setPath_fresh (r : Road) (p : Fin 24) (x : PathRec) : (r.setPath p x).fresh = r.fresh := rfl

@[simp] theorem raise_slots (r : Road) (f : Flag) : (r.raise f).slots = r.slots := rfl
@[simp] theorem raise_freeLines (r : Road) (f : Flag) : (r.raise f).freeLines = r.freeLines := rfl
@[simp] theorem raise_reserve (r : Road) (f : Flag) : (r.raise f).reserve = r.reserve := rfl
@[simp] theorem raise_dir (r : Road) (f : Flag) : (r.raise f).dir = r.dir := rfl
@[simp] theorem raise_awaiting (r : Road) (f : Flag) : (r.raise f).awaiting = r.awaiting := rfl
@[simp] theorem raise_queue (r : Road) (f : Flag) : (r.raise f).queue = r.queue := rfl
@[simp] theorem raise_work (r : Road) (f : Flag) : (r.raise f).work = r.work := rfl
@[simp] theorem raise_settle (r : Road) (f : Flag) : (r.raise f).settle = r.settle := rfl
@[simp] theorem raise_links (r : Road) (f : Flag) : (r.raise f).links = r.links := rfl
@[simp] theorem raise_lines (r : Road) (f : Flag) : (r.raise f).lines = r.lines := rfl
@[simp] theorem raise_sections (r : Road) (f : Flag) : (r.raise f).sections = r.sections := rfl
@[simp] theorem raise_gates (r : Road) (f : Flag) : (r.raise f).gates = r.gates := rfl
@[simp] theorem raise_inputs (r : Road) (f : Flag) : (r.raise f).inputs = r.inputs := rfl
@[simp] theorem raise_occ (r : Road) (f : Flag) : (r.raise f).occ = r.occ := rfl
@[simp] theorem raise_paths (r : Road) (f : Flag) : (r.raise f).paths = r.paths := rfl
@[simp] theorem raise_fresh (r : Road) (f : Flag) : (r.raise f).fresh = r.fresh := rfl

@[simp] theorem setPosting_freeLines (r : Road) (i : Fin 256) (p : Posting) : (r.setPosting i p).freeLines = r.freeLines := rfl
@[simp] theorem setPosting_reserve (r : Road) (i : Fin 256) (p : Posting) : (r.setPosting i p).reserve = r.reserve := rfl
@[simp] theorem setPosting_dir (r : Road) (i : Fin 256) (p : Posting) : (r.setPosting i p).dir = r.dir := rfl
@[simp] theorem setPosting_awaiting (r : Road) (i : Fin 256) (p : Posting) : (r.setPosting i p).awaiting = r.awaiting := rfl
@[simp] theorem setPosting_queue (r : Road) (i : Fin 256) (p : Posting) : (r.setPosting i p).queue = r.queue := rfl
@[simp] theorem setPosting_work (r : Road) (i : Fin 256) (p : Posting) : (r.setPosting i p).work = r.work := rfl
@[simp] theorem setPosting_settle (r : Road) (i : Fin 256) (p : Posting) : (r.setPosting i p).settle = r.settle := rfl
@[simp] theorem setPosting_links (r : Road) (i : Fin 256) (p : Posting) : (r.setPosting i p).links = r.links := rfl
@[simp] theorem setPosting_lines (r : Road) (i : Fin 256) (p : Posting) : (r.setPosting i p).lines = r.lines := rfl
@[simp] theorem setPosting_sections (r : Road) (i : Fin 256) (p : Posting) : (r.setPosting i p).sections = r.sections := rfl
@[simp] theorem setPosting_gates (r : Road) (i : Fin 256) (p : Posting) : (r.setPosting i p).gates = r.gates := rfl
@[simp] theorem setPosting_inputs (r : Road) (i : Fin 256) (p : Posting) : (r.setPosting i p).inputs = r.inputs := rfl
@[simp] theorem setPosting_occ (r : Road) (i : Fin 256) (p : Posting) : (r.setPosting i p).occ = r.occ := rfl
@[simp] theorem setPosting_paths (r : Road) (i : Fin 256) (p : Posting) : (r.setPosting i p).paths = r.paths := rfl
@[simp] theorem setPosting_flags (r : Road) (i : Fin 256) (p : Posting) : (r.setPosting i p).flags = r.flags := rfl
@[simp] theorem setPosting_fresh (r : Road) (i : Fin 256) (p : Posting) : (r.setPosting i p).fresh = r.fresh := rfl

@[simp] theorem bumpVersion_freeLines (r : Road) (i : Fin 256) : (r.bumpVersion i).freeLines = r.freeLines := rfl
@[simp] theorem bumpVersion_reserve (r : Road) (i : Fin 256) : (r.bumpVersion i).reserve = r.reserve := rfl
@[simp] theorem bumpVersion_dir (r : Road) (i : Fin 256) : (r.bumpVersion i).dir = r.dir := rfl
@[simp] theorem bumpVersion_awaiting (r : Road) (i : Fin 256) : (r.bumpVersion i).awaiting = r.awaiting := rfl
@[simp] theorem bumpVersion_queue (r : Road) (i : Fin 256) : (r.bumpVersion i).queue = r.queue := rfl
@[simp] theorem bumpVersion_work (r : Road) (i : Fin 256) : (r.bumpVersion i).work = r.work := rfl
@[simp] theorem bumpVersion_settle (r : Road) (i : Fin 256) : (r.bumpVersion i).settle = r.settle := rfl
@[simp] theorem bumpVersion_links (r : Road) (i : Fin 256) : (r.bumpVersion i).links = r.links := rfl
@[simp] theorem bumpVersion_lines (r : Road) (i : Fin 256) : (r.bumpVersion i).lines = r.lines := rfl
@[simp] theorem bumpVersion_sections (r : Road) (i : Fin 256) : (r.bumpVersion i).sections = r.sections := rfl
@[simp] theorem bumpVersion_gates (r : Road) (i : Fin 256) : (r.bumpVersion i).gates = r.gates := rfl
@[simp] theorem bumpVersion_inputs (r : Road) (i : Fin 256) : (r.bumpVersion i).inputs = r.inputs := rfl
@[simp] theorem bumpVersion_occ (r : Road) (i : Fin 256) : (r.bumpVersion i).occ = r.occ := rfl
@[simp] theorem bumpVersion_paths (r : Road) (i : Fin 256) : (r.bumpVersion i).paths = r.paths := rfl
@[simp] theorem bumpVersion_flags (r : Road) (i : Fin 256) : (r.bumpVersion i).flags = r.flags := rfl
@[simp] theorem bumpVersion_fresh (r : Road) (i : Fin 256) : (r.bumpVersion i).fresh = r.fresh := rfl

@[simp] theorem markCopies_slots (r : Road) (h : Handle) (o : Bool) : (r.markCopies h o).slots = r.slots := rfl
@[simp] theorem markCopies_freeLines (r : Road) (h : Handle) (o : Bool) : (r.markCopies h o).freeLines = r.freeLines := rfl
@[simp] theorem markCopies_reserve (r : Road) (h : Handle) (o : Bool) : (r.markCopies h o).reserve = r.reserve := rfl
@[simp] theorem markCopies_awaiting (r : Road) (h : Handle) (o : Bool) : (r.markCopies h o).awaiting = r.awaiting := rfl
@[simp] theorem markCopies_queue (r : Road) (h : Handle) (o : Bool) : (r.markCopies h o).queue = r.queue := rfl
@[simp] theorem markCopies_work (r : Road) (h : Handle) (o : Bool) : (r.markCopies h o).work = r.work := rfl
@[simp] theorem markCopies_settle (r : Road) (h : Handle) (o : Bool) : (r.markCopies h o).settle = r.settle := rfl
@[simp] theorem markCopies_links (r : Road) (h : Handle) (o : Bool) : (r.markCopies h o).links = r.links := rfl
@[simp] theorem markCopies_lines (r : Road) (h : Handle) (o : Bool) : (r.markCopies h o).lines = r.lines := rfl
@[simp] theorem markCopies_sections (r : Road) (h : Handle) (o : Bool) : (r.markCopies h o).sections = r.sections := rfl
@[simp] theorem markCopies_gates (r : Road) (h : Handle) (o : Bool) : (r.markCopies h o).gates = r.gates := rfl
@[simp] theorem markCopies_inputs (r : Road) (h : Handle) (o : Bool) : (r.markCopies h o).inputs = r.inputs := rfl
@[simp] theorem markCopies_occ (r : Road) (h : Handle) (o : Bool) : (r.markCopies h o).occ = r.occ := rfl
@[simp] theorem markCopies_paths (r : Road) (h : Handle) (o : Bool) : (r.markCopies h o).paths = r.paths := rfl
@[simp] theorem markCopies_flags (r : Road) (h : Handle) (o : Bool) : (r.markCopies h o).flags = r.flags := rfl
@[simp] theorem markCopies_fresh (r : Road) (h : Handle) (o : Bool) : (r.markCopies h o).fresh = r.fresh := rfl

@[simp] theorem endPart_slots (r : Road) (u : UnitId) : (r.endPart u).slots = r.slots := rfl
@[simp] theorem endPart_freeLines (r : Road) (u : UnitId) : (r.endPart u).freeLines = r.freeLines := rfl
@[simp] theorem endPart_reserve (r : Road) (u : UnitId) : (r.endPart u).reserve = r.reserve := rfl
@[simp] theorem endPart_dir (r : Road) (u : UnitId) : (r.endPart u).dir = r.dir := rfl
@[simp] theorem endPart_awaiting (r : Road) (u : UnitId) : (r.endPart u).awaiting = r.awaiting := rfl
@[simp] theorem endPart_queue (r : Road) (u : UnitId) : (r.endPart u).queue = r.queue := rfl
@[simp] theorem endPart_settle (r : Road) (u : UnitId) : (r.endPart u).settle = r.settle := rfl
@[simp] theorem endPart_links (r : Road) (u : UnitId) : (r.endPart u).links = r.links := rfl
@[simp] theorem endPart_lines (r : Road) (u : UnitId) : (r.endPart u).lines = r.lines := rfl
@[simp] theorem endPart_sections (r : Road) (u : UnitId) : (r.endPart u).sections = r.sections := rfl
@[simp] theorem endPart_gates (r : Road) (u : UnitId) : (r.endPart u).gates = r.gates := rfl
@[simp] theorem endPart_inputs (r : Road) (u : UnitId) : (r.endPart u).inputs = r.inputs := rfl
@[simp] theorem endPart_occ (r : Road) (u : UnitId) : (r.endPart u).occ = r.occ := rfl
@[simp] theorem endPart_paths (r : Road) (u : UnitId) : (r.endPart u).paths = r.paths := rfl
@[simp] theorem endPart_flags (r : Road) (u : UnitId) : (r.endPart u).flags = r.flags := rfl
@[simp] theorem endPart_fresh (r : Road) (u : UnitId) : (r.endPart u).fresh = r.fresh := rfl

@[simp] theorem endFetch_slots (r : Road) (f : FetchItem → Bool) : (r.endFetch f).slots = r.slots := rfl
@[simp] theorem endFetch_freeLines (r : Road) (f : FetchItem → Bool) : (r.endFetch f).freeLines = r.freeLines := rfl
@[simp] theorem endFetch_reserve (r : Road) (f : FetchItem → Bool) : (r.endFetch f).reserve = r.reserve := rfl
@[simp] theorem endFetch_dir (r : Road) (f : FetchItem → Bool) : (r.endFetch f).dir = r.dir := rfl
@[simp] theorem endFetch_awaiting (r : Road) (f : FetchItem → Bool) : (r.endFetch f).awaiting = r.awaiting := rfl
@[simp] theorem endFetch_queue (r : Road) (f : FetchItem → Bool) : (r.endFetch f).queue = r.queue := rfl
@[simp] theorem endFetch_settle (r : Road) (f : FetchItem → Bool) : (r.endFetch f).settle = r.settle := rfl
@[simp] theorem endFetch_links (r : Road) (f : FetchItem → Bool) : (r.endFetch f).links = r.links := rfl
@[simp] theorem endFetch_lines (r : Road) (f : FetchItem → Bool) : (r.endFetch f).lines = r.lines := rfl
@[simp] theorem endFetch_sections (r : Road) (f : FetchItem → Bool) : (r.endFetch f).sections = r.sections := rfl
@[simp] theorem endFetch_gates (r : Road) (f : FetchItem → Bool) : (r.endFetch f).gates = r.gates := rfl
@[simp] theorem endFetch_inputs (r : Road) (f : FetchItem → Bool) : (r.endFetch f).inputs = r.inputs := rfl
@[simp] theorem endFetch_occ (r : Road) (f : FetchItem → Bool) : (r.endFetch f).occ = r.occ := rfl
@[simp] theorem endFetch_paths (r : Road) (f : FetchItem → Bool) : (r.endFetch f).paths = r.paths := rfl
@[simp] theorem endFetch_flags (r : Road) (f : FetchItem → Bool) : (r.endFetch f).flags = r.flags := rfl
@[simp] theorem endFetch_fresh (r : Road) (f : FetchItem → Bool) : (r.endFetch f).fresh = r.fresh := rfl

@[simp] theorem send_slots (r : Road) (l : Fin 4) (a : Fin 12) (s : Sent) : (r.send l a s).slots = r.slots := rfl
@[simp] theorem send_freeLines (r : Road) (l : Fin 4) (a : Fin 12) (s : Sent) : (r.send l a s).freeLines = r.freeLines := rfl
@[simp] theorem send_reserve (r : Road) (l : Fin 4) (a : Fin 12) (s : Sent) : (r.send l a s).reserve = r.reserve := rfl
@[simp] theorem send_dir (r : Road) (l : Fin 4) (a : Fin 12) (s : Sent) : (r.send l a s).dir = r.dir := rfl
@[simp] theorem send_awaiting (r : Road) (l : Fin 4) (a : Fin 12) (s : Sent) : (r.send l a s).awaiting = r.awaiting := rfl
@[simp] theorem send_queue (r : Road) (l : Fin 4) (a : Fin 12) (s : Sent) : (r.send l a s).queue = r.queue := rfl
@[simp] theorem send_work (r : Road) (l : Fin 4) (a : Fin 12) (s : Sent) : (r.send l a s).work = r.work := rfl
@[simp] theorem send_settle (r : Road) (l : Fin 4) (a : Fin 12) (s : Sent) : (r.send l a s).settle = r.settle := rfl
@[simp] theorem send_links (r : Road) (l : Fin 4) (a : Fin 12) (s : Sent) : (r.send l a s).links = r.links := rfl
@[simp] theorem send_sections (r : Road) (l : Fin 4) (a : Fin 12) (s : Sent) : (r.send l a s).sections = r.sections := rfl
@[simp] theorem send_gates (r : Road) (l : Fin 4) (a : Fin 12) (s : Sent) : (r.send l a s).gates = r.gates := rfl
@[simp] theorem send_inputs (r : Road) (l : Fin 4) (a : Fin 12) (s : Sent) : (r.send l a s).inputs = r.inputs := rfl
@[simp] theorem send_occ (r : Road) (l : Fin 4) (a : Fin 12) (s : Sent) : (r.send l a s).occ = r.occ := rfl
@[simp] theorem send_paths (r : Road) (l : Fin 4) (a : Fin 12) (s : Sent) : (r.send l a s).paths = r.paths := rfl
@[simp] theorem send_flags (r : Road) (l : Fin 4) (a : Fin 12) (s : Sent) : (r.send l a s).flags = r.flags := rfl
@[simp] theorem send_fresh (r : Road) (l : Fin 4) (a : Fin 12) (s : Sent) : (r.send l a s).fresh = r.fresh := rfl

/-! ### State and port -/

@[simp] theorem shiftOut_cru (s : State) (o : List Byte) : (s.shiftOut o).cru = s.cru := rfl
@[simp] theorem shiftOut_plan (s : State) (o : List Byte) : (s.shiftOut o).plan = s.plan := rfl
@[simp] theorem shiftOut_part (s : State) (o : List Byte) : (s.shiftOut o).part = s.part := rfl
@[simp] theorem shiftOut_road (s : State) (o : List Byte) : (s.shiftOut o).road = s.road := rfl
@[simp] theorem shiftOut_pins (s : State) (o : List Byte) : (s.shiftOut o).pins = s.pins := rfl
@[simp] theorem shiftOut_pending (s : State) (o : List Byte) : (s.shiftOut o).pending = s.pending := rfl
@[simp] theorem shiftOut_port_state (s : State) (o : List Byte) : (s.shiftOut o).port.state = s.port.state := rfl
@[simp] theorem shiftOut_port_reply (s : State) (o : List Byte) : (s.shiftOut o).port.reply = s.port.reply := rfl
@[simp] theorem shiftOut_port_buffer (s : State) (o : List Byte) : (s.shiftOut o).port.buffer = s.port.buffer := rfl
@[simp] theorem shiftOut_port_enables (s : State) (o : List Byte) : (s.shiftOut o).port.enables = s.port.enables := rfl
@[simp] theorem shiftOut_port_master (s : State) (o : List Byte) : (s.shiftOut o).port.master = s.port.master := rfl
@[simp] theorem shiftOut_port_mode (s : State) (o : List Byte) : (s.shiftOut o).port.mode = s.port.mode := rfl
@[simp] theorem shiftOut_port_interval (s : State) (o : List Byte) : (s.shiftOut o).port.interval = s.port.interval := rfl
@[simp] theorem shiftOut_port_timer (s : State) (o : List Byte) : (s.shiftOut o).port.timer = s.port.timer := rfl

@[simp] theorem receive_cru (s : State) (c : Byte) (b : List Byte) : (s.receive c b).cru = s.cru := rfl
@[simp] theorem receive_plan (s : State) (c : Byte) (b : List Byte) : (s.receive c b).plan = s.plan := rfl
@[simp] theorem receive_part (s : State) (c : Byte) (b : List Byte) : (s.receive c b).part = s.part := rfl
@[simp] theorem receive_road (s : State) (c : Byte) (b : List Byte) : (s.receive c b).road = s.road := rfl
@[simp] theorem receive_pins (s : State) (c : Byte) (b : List Byte) : (s.receive c b).pins = s.pins := rfl
@[simp] theorem receive_pending (s : State) (c : Byte) (b : List Byte) : (s.receive c b).pending = s.pending := rfl
@[simp] theorem receive_port_state (s : State) (c : Byte) (b : List Byte) : (s.receive c b).port.state = s.port.state := rfl
@[simp] theorem receive_port_reply (s : State) (c : Byte) (b : List Byte) : (s.receive c b).port.reply = s.port.reply := rfl
@[simp] theorem receive_port_enables (s : State) (c : Byte) (b : List Byte) : (s.receive c b).port.enables = s.port.enables := rfl
@[simp] theorem receive_port_master (s : State) (c : Byte) (b : List Byte) : (s.receive c b).port.master = s.port.master := rfl
@[simp] theorem receive_port_mode (s : State) (c : Byte) (b : List Byte) : (s.receive c b).port.mode = s.port.mode := rfl
@[simp] theorem receive_port_interval (s : State) (c : Byte) (b : List Byte) : (s.receive c b).port.interval = s.port.interval := rfl
@[simp] theorem receive_port_timer (s : State) (c : Byte) (b : List Byte) : (s.receive c b).port.timer = s.port.timer := rfl
@[simp] theorem receive_port_out (s : State) (c : Byte) (b : List Byte) : (s.receive c b).port.out = s.port.out := rfl

@[simp] theorem place_cru (s : State) (r : Reply) : (s.place r).cru = s.cru := rfl
@[simp] theorem place_plan (s : State) (r : Reply) : (s.place r).plan = s.plan := rfl
@[simp] theorem place_part (s : State) (r : Reply) : (s.place r).part = s.part := rfl
@[simp] theorem place_road (s : State) (r : Reply) : (s.place r).road = s.road := rfl
@[simp] theorem place_pins (s : State) (r : Reply) : (s.place r).pins = s.pins := rfl
@[simp] theorem place_pending (s : State) (r : Reply) : (s.place r).pending = s.pending := rfl
@[simp] theorem place_port_buffer (s : State) (r : Reply) : (s.place r).port.buffer = s.port.buffer := rfl
@[simp] theorem place_port_enables (s : State) (r : Reply) : (s.place r).port.enables = s.port.enables := rfl
@[simp] theorem place_port_master (s : State) (r : Reply) : (s.place r).port.master = s.port.master := rfl
@[simp] theorem place_port_mode (s : State) (r : Reply) : (s.place r).port.mode = s.port.mode := rfl
@[simp] theorem place_port_interval (s : State) (r : Reply) : (s.place r).port.interval = s.port.interval := rfl
@[simp] theorem place_port_out (s : State) (r : Reply) : (s.place r).port.out = s.port.out := rfl

@[simp] theorem wait_cru (s : State) : (s.wait).cru = s.cru := rfl
@[simp] theorem wait_plan (s : State) : (s.wait).plan = s.plan := rfl
@[simp] theorem wait_part (s : State) : (s.wait).part = s.part := rfl
@[simp] theorem wait_road (s : State) : (s.wait).road = s.road := rfl
@[simp] theorem wait_pins (s : State) : (s.wait).pins = s.pins := rfl
@[simp] theorem wait_pending (s : State) : (s.wait).pending = s.pending := rfl
@[simp] theorem wait_port_reply (s : State) : (s.wait).port.reply = s.port.reply := rfl
@[simp] theorem wait_port_buffer (s : State) : (s.wait).port.buffer = s.port.buffer := rfl
@[simp] theorem wait_port_enables (s : State) : (s.wait).port.enables = s.port.enables := rfl
@[simp] theorem wait_port_master (s : State) : (s.wait).port.master = s.port.master := rfl
@[simp] theorem wait_port_mode (s : State) : (s.wait).port.mode = s.port.mode := rfl
@[simp] theorem wait_port_interval (s : State) : (s.wait).port.interval = s.port.interval := rfl
@[simp] theorem wait_port_out (s : State) : (s.wait).port.out = s.port.out := rfl

@[simp] theorem setPin_cru (s : State) (i : Fin 16) (x : Level) : (s.setPin i x).cru = s.cru := rfl
@[simp] theorem setPin_plan (s : State) (i : Fin 16) (x : Level) : (s.setPin i x).plan = s.plan := rfl
@[simp] theorem setPin_part (s : State) (i : Fin 16) (x : Level) : (s.setPin i x).part = s.part := rfl
@[simp] theorem setPin_port (s : State) (i : Fin 16) (x : Level) : (s.setPin i x).port = s.port := rfl
@[simp] theorem setPin_road (s : State) (i : Fin 16) (x : Level) : (s.setPin i x).road = s.road := rfl
@[simp] theorem setPin_pending (s : State) (i : Fin 16) (x : Level) : (s.setPin i x).pending = s.pending := rfl

@[simp] theorem place_port_state (s : State) (r : Reply) : (s.place r).port.state = .unread := rfl
@[simp] theorem place_port_reply (s : State) (r : Reply) : (s.place r).port.reply = some r := rfl
@[simp] theorem place_port_timer (s : State) (r : Reply) :
    (s.place r).port.timer = s.port.restarted := rfl
@[simp] theorem wait_port_state (s : State) : s.wait.port.state = .busy := rfl
@[simp] theorem wait_port_timer (s : State) : s.wait.port.timer = none := rfl
@[simp] theorem shiftOut_port_out (s : State) (o : List Byte) : (s.shiftOut o).port.out = o := rfl
@[simp] theorem shiftOut_port_overtaken (s : State) (o : List Byte) : (s.shiftOut o).port.overtaken = false := rfl
@[simp] theorem receive_port_overtaken (s : State) (c : Byte) (b : List Byte) : (s.receive c b).port.overtaken = s.port.overtaken := rfl
@[simp] theorem place_port_overtaken (s : State) (r : Reply) : (s.place r).port.overtaken = false := rfl
@[simp] theorem wait_port_overtaken (s : State) : s.wait.port.overtaken = s.port.overtaken := rfl

@[simp] theorem overtake_cru (s : State) (r : Reply) : (s.overtake r).cru = s.cru := rfl
@[simp] theorem overtake_plan (s : State) (r : Reply) : (s.overtake r).plan = s.plan := rfl
@[simp] theorem overtake_part (s : State) (r : Reply) : (s.overtake r).part = s.part := rfl
@[simp] theorem overtake_road (s : State) (r : Reply) : (s.overtake r).road = s.road := rfl
@[simp] theorem overtake_pins (s : State) (r : Reply) : (s.overtake r).pins = s.pins := rfl
@[simp] theorem overtake_pending (s : State) (r : Reply) : (s.overtake r).pending = s.pending := rfl
@[simp] theorem overtake_port_buffer (s : State) (r : Reply) : (s.overtake r).port.buffer = s.port.buffer := rfl
@[simp] theorem overtake_port_enables (s : State) (r : Reply) : (s.overtake r).port.enables = s.port.enables := rfl
@[simp] theorem overtake_port_master (s : State) (r : Reply) : (s.overtake r).port.master = s.port.master := rfl
@[simp] theorem overtake_port_mode (s : State) (r : Reply) : (s.overtake r).port.mode = s.port.mode := rfl
@[simp] theorem overtake_port_interval (s : State) (r : Reply) : (s.overtake r).port.interval = s.port.interval := rfl
@[simp] theorem overtake_port_out (s : State) (r : Reply) : (s.overtake r).port.out = s.port.out := rfl
@[simp] theorem overtake_port_state (s : State) (r : Reply) : (s.overtake r).port.state = .unread := rfl
@[simp] theorem overtake_port_reply (s : State) (r : Reply) : (s.overtake r).port.reply = some r := rfl
@[simp] theorem overtake_port_timer (s : State) (r : Reply) :
    (s.overtake r).port.timer = s.port.restarted := rfl
@[simp] theorem overtake_port_overtaken (s : State) (r : Reply) : (s.overtake r).port.overtaken = true := rfl

@[simp] theorem flagFault_slots (b : Bool) (a : PosState) (r : Road) : (r.flagFault b a).slots = r.slots := by
  unfold Road.flagFault; split <;> rfl
@[simp] theorem flagFault_freeLines (b : Bool) (a : PosState) (r : Road) : (r.flagFault b a).freeLines = r.freeLines := by
  unfold Road.flagFault; split <;> rfl
@[simp] theorem flagFault_reserve (b : Bool) (a : PosState) (r : Road) : (r.flagFault b a).reserve = r.reserve := by
  unfold Road.flagFault; split <;> rfl
@[simp] theorem flagFault_dir (b : Bool) (a : PosState) (r : Road) : (r.flagFault b a).dir = r.dir := by
  unfold Road.flagFault; split <;> rfl
@[simp] theorem flagFault_awaiting (b : Bool) (a : PosState) (r : Road) : (r.flagFault b a).awaiting = r.awaiting := by
  unfold Road.flagFault; split <;> rfl
@[simp] theorem flagFault_queue (b : Bool) (a : PosState) (r : Road) : (r.flagFault b a).queue = r.queue := by
  unfold Road.flagFault; split <;> rfl
@[simp] theorem flagFault_work (b : Bool) (a : PosState) (r : Road) : (r.flagFault b a).work = r.work := by
  unfold Road.flagFault; split <;> rfl
@[simp] theorem flagFault_settle (b : Bool) (a : PosState) (r : Road) : (r.flagFault b a).settle = r.settle := by
  unfold Road.flagFault; split <;> rfl
@[simp] theorem flagFault_links (b : Bool) (a : PosState) (r : Road) : (r.flagFault b a).links = r.links := by
  unfold Road.flagFault; split <;> rfl
@[simp] theorem flagFault_lines (b : Bool) (a : PosState) (r : Road) : (r.flagFault b a).lines = r.lines := by
  unfold Road.flagFault; split <;> rfl
@[simp] theorem flagFault_sections (b : Bool) (a : PosState) (r : Road) : (r.flagFault b a).sections = r.sections := by
  unfold Road.flagFault; split <;> rfl
@[simp] theorem flagFault_gates (b : Bool) (a : PosState) (r : Road) : (r.flagFault b a).gates = r.gates := by
  unfold Road.flagFault; split <;> rfl
@[simp] theorem flagFault_inputs (b : Bool) (a : PosState) (r : Road) : (r.flagFault b a).inputs = r.inputs := by
  unfold Road.flagFault; split <;> rfl
@[simp] theorem flagFault_occ (b : Bool) (a : PosState) (r : Road) : (r.flagFault b a).occ = r.occ := by
  unfold Road.flagFault; split <;> rfl
@[simp] theorem flagFault_paths (b : Bool) (a : PosState) (r : Road) : (r.flagFault b a).paths = r.paths := by
  unfold Road.flagFault; split <;> rfl
@[simp] theorem flagFault_fresh (b : Bool) (a : PosState) (r : Road) : (r.flagFault b a).fresh = r.fresh := by
  unfold Road.flagFault; split <;> rfl

end Sys2Proof.Machine
end

