-- ==== Sys2Proof/Laws/Ops.lean ====
section
/-! SUPPORT. Reading a record after a write: what was written at the same place, what stood there
before at every other place, and no change in a field of another kind. -/

namespace Sys2Proof.Machine

theorem unitIdx_injective : Function.Injective unitIdx := by
  intro a b h
  have h' : a.line.val * 12 + a.addr.val = b.line.val * 12 + b.addr.val := congrArg Fin.val h
  have := a.addr.isLt
  have := b.addr.isLt
  cases a; cases b
  simp only [UnitId.mk.injEq, Fin.ext_iff]
  simp only at *
  omega

@[simp] theorem unitIdx_inj {a b : UnitId} : unitIdx a = unitIdx b ↔ a = b :=
  unitIdx_injective.eq_iff

/-! ### Same field -/

theorem slot_setSlot (r : Road) (i : Fin 256) (x : Slot) (j : Fin 256) :
    (r.setSlot i x).slot j = if i = j then x else r.slot j := by
  simp [Road.setSlot, Road.slot, vget_vset]

@[simp] theorem slot_setSlot_self (r : Road) (i : Fin 256) (x : Slot) : (r.setSlot i x).slot i = x := by
  simp [slot_setSlot]

theorem dirOf_setDirOf (r : Road) (u : UnitId) (x : List CopySlot) (j : UnitId) :
    (r.setDirOf u x).dirOf j = if u = j then x else r.dirOf j := by
  simp [Road.setDirOf, Road.dirOf, vget_vset]

@[simp] theorem dirOf_setDirOf_self (r : Road) (u : UnitId) (x : List CopySlot) : (r.setDirOf u x).dirOf u = x := by
  simp [dirOf_setDirOf]

theorem awaits_setAwaits (r : Road) (u : UnitId) (x : Bool) (j : UnitId) :
    (r.setAwaits u x).awaits j = if u = j then x else r.awaits j := by
  simp [Road.setAwaits, Road.awaits, vget_vset]

@[simp] theorem awaits_setAwaits_self (r : Road) (u : UnitId) (x : Bool) : (r.setAwaits u x).awaits u = x := by
  simp [awaits_setAwaits]

theorem link_setLink (r : Road) (u : UnitId) (x : Link) (j : UnitId) :
    (r.setLink u x).link j = if u = j then x else r.link j := by
  simp [Road.setLink, Road.link, vget_vset]

@[simp] theorem link_setLink_self (r : Road) (u : UnitId) (x : Link) : (r.setLink u x).link u = x := by
  simp [link_setLink]

theorem line_setLine (r : Road) (l : Fin 4) (x : Line) (j : Fin 4) :
    (r.setLine l x).line j = if l = j then x else r.line j := by
  simp [Road.setLine, Road.line, vget_vset]

@[simp] theorem line_setLine_self (r : Road) (l : Fin 4) (x : Line) : (r.setLine l x).line l = x := by
  simp [line_setLine]

theorem sec_setSec (r : Road) (i : Fin 8) (x : SectionRec) (j : Fin 8) :
    (r.setSec i x).sec j = if i = j then some x else r.sec j := by
  simp [Road.setSec, Road.sec, vget_vset]

@[simp] theorem sec_setSec_self (r : Road) (i : Fin 8) (x : SectionRec) : (r.setSec i x).sec i = some x := by
  simp [sec_setSec]

theorem gate_setGate (r : Road) (i : Fin 16) (x : GateRec) (j : Fin 16) :
    (r.setGate i x).gate j = if i = j then some x else r.gate j := by
  simp [Road.setGate, Road.gate, vget_vset]

@[simp] theorem gate_setGate_self (r : Road) (i : Fin 16) (x : GateRec) : (r.setGate i x).gate i = some x := by
  simp [gate_setGate]

theorem input_setInput (r : Road) (i : Fin 16) (x : InputRec) (j : Fin 16) :
    (r.setInput i x).input j = if i = j then x else r.input j := by
  simp [Road.setInput, Road.input, vget_vset]

@[simp] theorem input_setInput_self (r : Road) (i : Fin 16) (x : InputRec) : (r.setInput i x).input i = x := by
  simp [input_setInput]

theorem occOf_setOcc (r : Road) (i : Fin 8) (x : Occ) (j : Fin 8) :
    (r.setOcc i x).occOf j = if i = j then some x else r.occOf j := by
  simp [Road.setOcc, Road.occOf, vget_vset]

@[simp] theorem occOf_setOcc_self (r : Road) (i : Fin 8) (x : Occ) : (r.setOcc i x).occOf i = some x := by
  simp [occOf_setOcc]

theorem path_setPath (r : Road) (i : Fin 24) (x : PathRec) (j : Fin 24) :
    (r.setPath i x).path j = if i = j then some x else r.path j := by
  simp [Road.setPath, Road.path, vget_vset]

@[simp] theorem path_setPath_self (r : Road) (i : Fin 24) (x : PathRec) : (r.setPath i x).path i = some x := by
  simp [path_setPath]

@[simp] theorem secState_setSec_self (r : Road) (i : Fin 8) (x : SectionRec) :
    (r.setSec i x).secState i = some x.state := by
  simp [Road.secState]

/-! ### Other fields -/

@[simp] theorem dirOf_setSlot (r : Road) (i : Fin 256) (x : Slot) (u' : UnitId) :
    (r.setSlot i x).dirOf u' = r.dirOf u' := rfl
@[simp] theorem awaits_setSlot (r : Road) (i : Fin 256) (x : Slot) (u' : UnitId) :
    (r.setSlot i x).awaits u' = r.awaits u' := rfl
@[simp] theorem link_setSlot (r : Road) (i : Fin 256) (x : Slot) (u' : UnitId) :
    (r.setSlot i x).link u' = r.link u' := rfl
@[simp] theorem online_setSlot (r : Road) (i : Fin 256) (x : Slot) (u' : UnitId) :
    (r.setSlot i x).online u' = r.online u' := rfl
@[simp] theorem line_setSlot (r : Road) (i : Fin 256) (x : Slot) (l' : Fin 4) :
    (r.setSlot i x).line l' = r.line l' := rfl
@[simp] theorem sec_setSlot (r : Road) (i : Fin 256) (x : Slot) (j : Fin 8) :
    (r.setSlot i x).sec j = r.sec j := rfl
@[simp] theorem secState_setSlot (r : Road) (i : Fin 256) (x : Slot) (j : Fin 8) :
    (r.setSlot i x).secState j = r.secState j := rfl
@[simp] theorem gate_setSlot (r : Road) (i : Fin 256) (x : Slot) (j : Fin 16) :
    (r.setSlot i x).gate j = r.gate j := rfl
@[simp] theorem input_setSlot (r : Road) (i : Fin 256) (x : Slot) (j : Fin 16) :
    (r.setSlot i x).input j = r.input j := rfl
@[simp] theorem occOf_setSlot (r : Road) (i : Fin 256) (x : Slot) (j : Fin 8) :
    (r.setSlot i x).occOf j = r.occOf j := rfl
@[simp] theorem path_setSlot (r : Road) (i : Fin 256) (x : Slot) (j : Fin 24) :
    (r.setSlot i x).path j = r.path j := rfl
@[simp] theorem watchOf_setSlot (r : Road) (i : Fin 256) (x : Slot) (j : Fin 24) :
    (r.setSlot i x).watchOf j = r.watchOf j := rfl
@[simp] theorem slot_setDirOf (r : Road) (u : UnitId) (x : List CopySlot) (j : Fin 256) :
    (r.setDirOf u x).slot j = r.slot j := rfl
@[simp] theorem named_setDirOf (r : Road) (u : UnitId) (x : List CopySlot) (h' : Handle) :
    (r.setDirOf u x).named h' = r.named h' := rfl
@[simp] theorem namedState_setDirOf (r : Road) (u : UnitId) (x : List CopySlot) (h' : Handle) :
    (r.setDirOf u x).namedState h' = r.namedState h' := rfl
@[simp] theorem version_setDirOf (r : Road) (u : UnitId) (x : List CopySlot) (h' : Handle) :
    (r.setDirOf u x).version h' = r.version h' := rfl
@[simp] theorem awaits_setDirOf (r : Road) (u : UnitId) (x : List CopySlot) (u' : UnitId) :
    (r.setDirOf u x).awaits u' = r.awaits u' := rfl
@[simp] theorem link_setDirOf (r : Road) (u : UnitId) (x : List CopySlot) (u' : UnitId) :
    (r.setDirOf u x).link u' = r.link u' := rfl
@[simp] theorem online_setDirOf (r : Road) (u : UnitId) (x : List CopySlot) (u' : UnitId) :
    (r.setDirOf u x).online u' = r.online u' := rfl
@[simp] theorem line_setDirOf (r : Road) (u : UnitId) (x : List CopySlot) (l' : Fin 4) :
    (r.setDirOf u x).line l' = r.line l' := rfl
@[simp] theorem sec_setDirOf (r : Road) (u : UnitId) (x : List CopySlot) (j : Fin 8) :
    (r.setDirOf u x).sec j = r.sec j := rfl
@[simp] theorem secState_setDirOf (r : Road) (u : UnitId) (x : List CopySlot) (j : Fin 8) :
    (r.setDirOf u x).secState j = r.secState j := rfl
@[simp] theorem gate_setDirOf (r : Road) (u : UnitId) (x : List CopySlot) (j : Fin 16) :
    (r.setDirOf u x).gate j = r.gate j := rfl
@[simp] theorem input_setDirOf (r : Road) (u : UnitId) (x : List CopySlot) (j : Fin 16) :
    (r.setDirOf u x).input j = r.input j := rfl
@[simp] theorem occOf_setDirOf (r : Road) (u : UnitId) (x : List CopySlot) (j : Fin 8) :
    (r.setDirOf u x).occOf j = r.occOf j := rfl
@[simp] theorem path_setDirOf (r : Road) (u : UnitId) (x : List CopySlot) (j : Fin 24) :
    (r.setDirOf u x).path j = r.path j := rfl
@[simp] theorem watchOf_setDirOf (r : Road) (u : UnitId) (x : List CopySlot) (j : Fin 24) :
    (r.setDirOf u x).watchOf j = r.watchOf j := rfl
@[simp] theorem slot_setCopy (r : Road) (u : UnitId) (n : Nat) (c : CopySlot) (j : Fin 256) :
    (r.setCopy u n c).slot j = r.slot j := rfl
@[simp] theorem named_setCopy (r : Road) (u : UnitId) (n : Nat) (c : CopySlot) (h' : Handle) :
    (r.setCopy u n c).named h' = r.named h' := rfl
@[simp] theorem namedState_setCopy (r : Road) (u : UnitId) (n : Nat) (c : CopySlot) (h' : Handle) :
    (r.setCopy u n c).namedState h' = r.namedState h' := rfl
@[simp] theorem version_setCopy (r : Road) (u : UnitId) (n : Nat) (c : CopySlot) (h' : Handle) :
    (r.setCopy u n c).version h' = r.version h' := rfl
@[simp] theorem awaits_setCopy (r : Road) (u : UnitId) (n : Nat) (c : CopySlot) (u' : UnitId) :
    (r.setCopy u n c).awaits u' = r.awaits u' := rfl
@[simp] theorem link_setCopy (r : Road) (u : UnitId) (n : Nat) (c : CopySlot) (u' : UnitId) :
    (r.setCopy u n c).link u' = r.link u' := rfl
@[simp] theorem online_setCopy (r : Road) (u : UnitId) (n : Nat) (c : CopySlot) (u' : UnitId) :
    (r.setCopy u n c).online u' = r.online u' := rfl
@[simp] theorem line_setCopy (r : Road) (u : UnitId) (n : Nat) (c : CopySlot) (l' : Fin 4) :
    (r.setCopy u n c).line l' = r.line l' := rfl
@[simp] theorem sec_setCopy (r : Road) (u : UnitId) (n : Nat) (c : CopySlot) (j : Fin 8) :
    (r.setCopy u n c).sec j = r.sec j := rfl
@[simp] theorem secState_setCopy (r : Road) (u : UnitId) (n : Nat) (c : CopySlot) (j : Fin 8) :
    (r.setCopy u n c).secState j = r.secState j := rfl
@[simp] theorem gate_setCopy (r : Road) (u : UnitId) (n : Nat) (c : CopySlot) (j : Fin 16) :
    (r.setCopy u n c).gate j = r.gate j := rfl
@[simp] theorem input_setCopy (r : Road) (u : UnitId) (n : Nat) (c : CopySlot) (j : Fin 16) :
    (r.setCopy u n c).input j = r.input j := rfl
@[simp] theorem occOf_setCopy (r : Road) (u : UnitId) (n : Nat) (c : CopySlot) (j : Fin 8) :
    (r.setCopy u n c).occOf j = r.occOf j := rfl
@[simp] theorem path_setCopy (r : Road) (u : UnitId) (n : Nat) (c : CopySlot) (j : Fin 24) :
    (r.setCopy u n c).path j = r.path j := rfl
@[simp] theorem watchOf_setCopy (r : Road) (u : UnitId) (n : Nat) (c : CopySlot) (j : Fin 24) :
    (r.setCopy u n c).watchOf j = r.watchOf j := rfl
@[simp] theorem slot_setAwaits (r : Road) (u : UnitId) (b : Bool) (j : Fin 256) :
    (r.setAwaits u b).slot j = r.slot j := rfl
@[simp] theorem named_setAwaits (r : Road) (u : UnitId) (b : Bool) (h' : Handle) :
    (r.setAwaits u b).named h' = r.named h' := rfl
@[simp] theorem namedState_setAwaits (r : Road) (u : UnitId) (b : Bool) (h' : Handle) :
    (r.setAwaits u b).namedState h' = r.namedState h' := rfl
@[simp] theorem version_setAwaits (r : Road) (u : UnitId) (b : Bool) (h' : Handle) :
    (r.setAwaits u b).version h' = r.version h' := rfl
@[simp] theorem dirOf_setAwaits (r : Road) (u : UnitId) (b : Bool) (u' : UnitId) :
    (r.setAwaits u b).dirOf u' = r.dirOf u' := rfl
@[simp] theorem link_setAwaits (r : Road) (u : UnitId) (b : Bool) (u' : UnitId) :
    (r.setAwaits u b).link u' = r.link u' := rfl
@[simp] theorem online_setAwaits (r : Road) (u : UnitId) (b : Bool) (u' : UnitId) :
    (r.setAwaits u b).online u' = r.online u' := rfl
@[simp] theorem line_setAwaits (r : Road) (u : UnitId) (b : Bool) (l' : Fin 4) :
    (r.setAwaits u b).line l' = r.line l' := rfl
@[simp] theorem sec_setAwaits (r : Road) (u : UnitId) (b : Bool) (j : Fin 8) :
    (r.setAwaits u b).sec j = r.sec j := rfl
@[simp] theorem secState_setAwaits (r : Road) (u : UnitId) (b : Bool) (j : Fin 8) :
    (r.setAwaits u b).secState j = r.secState j := rfl
@[simp] theorem gate_setAwaits (r : Road) (u : UnitId) (b : Bool) (j : Fin 16) :
    (r.setAwaits u b).gate j = r.gate j := rfl
@[simp] theorem input_setAwaits (r : Road) (u : UnitId) (b : Bool) (j : Fin 16) :
    (r.setAwaits u b).input j = r.input j := rfl
@[simp] theorem occOf_setAwaits (r : Road) (u : UnitId) (b : Bool) (j : Fin 8) :
    (r.setAwaits u b).occOf j = r.occOf j := rfl
@[simp] theorem path_setAwaits (r : Road) (u : UnitId) (b : Bool) (j : Fin 24) :
    (r.setAwaits u b).path j = r.path j := rfl
@[simp] theorem watchOf_setAwaits (r : Road) (u : UnitId) (b : Bool) (j : Fin 24) :
    (r.setAwaits u b).watchOf j = r.watchOf j := rfl
@[simp] theorem slot_setLink (r : Road) (u : UnitId) (x : Link) (j : Fin 256) :
    (r.setLink u x).slot j = r.slot j := rfl
@[simp] theorem named_setLink (r : Road) (u : UnitId) (x : Link) (h' : Handle) :
    (r.setLink u x).named h' = r.named h' := rfl
@[simp] theorem namedState_setLink (r : Road) (u : UnitId) (x : Link) (h' : Handle) :
    (r.setLink u x).namedState h' = r.namedState h' := rfl
@[simp] theorem version_setLink (r : Road) (u : UnitId) (x : Link) (h' : Handle) :
    (r.setLink u x).version h' = r.version h' := rfl
@[simp] theorem dirOf_setLink (r : Road) (u : UnitId) (x : Link) (u' : UnitId) :
    (r.setLink u x).dirOf u' = r.dirOf u' := rfl
@[simp] theorem awaits_setLink (r : Road) (u : UnitId) (x : Link) (u' : UnitId) :
    (r.setLink u x).awaits u' = r.awaits u' := rfl
@[simp] theorem line_setLink (r : Road) (u : UnitId) (x : Link) (l' : Fin 4) :
    (r.setLink u x).line l' = r.line l' := rfl
@[simp] theorem sec_setLink (r : Road) (u : UnitId) (x : Link) (j : Fin 8) :
    (r.setLink u x).sec j = r.sec j := rfl
@[simp] theorem secState_setLink (r : Road) (u : UnitId) (x : Link) (j : Fin 8) :
    (r.setLink u x).secState j = r.secState j := rfl
@[simp] theorem gate_setLink (r : Road) (u : UnitId) (x : Link) (j : Fin 16) :
    (r.setLink u x).gate j = r.gate j := rfl
@[simp] theorem input_setLink (r : Road) (u : UnitId) (x : Link) (j : Fin 16) :
    (r.setLink u x).input j = r.input j := rfl
@[simp] theorem occOf_setLink (r : Road) (u : UnitId) (x : Link) (j : Fin 8) :
    (r.setLink u x).occOf j = r.occOf j := rfl
@[simp] theorem path_setLink (r : Road) (u : UnitId) (x : Link) (j : Fin 24) :
    (r.setLink u x).path j = r.path j := rfl
@[simp] theorem watchOf_setLink (r : Road) (u : UnitId) (x : Link) (j : Fin 24) :
    (r.setLink u x).watchOf j = r.watchOf j := rfl
@[simp] theorem slot_setLine (r : Road) (l : Fin 4) (x : Line) (j : Fin 256) :
    (r.setLine l x).slot j = r.slot j := rfl
@[simp] theorem named_setLine (r : Road) (l : Fin 4) (x : Line) (h' : Handle) :
    (r.setLine l x).named h' = r.named h' := rfl
@[simp] theorem namedState_setLine (r : Road) (l : Fin 4) (x : Line) (h' : Handle) :
    (r.setLine l x).namedState h' = r.namedState h' := rfl
@[simp] theorem version_setLine (r : Road) (l : Fin 4) (x : Line) (h' : Handle) :
    (r.setLine l x).version h' = r.version h' := rfl
@[simp] theorem dirOf_setLine (r : Road) (l : Fin 4) (x : Line) (u' : UnitId) :
    (r.setLine l x).dirOf u' = r.dirOf u' := rfl
@[simp] theorem awaits_setLine (r : Road) (l : Fin 4) (x : Line) (u' : UnitId) :
    (r.setLine l x).awaits u' = r.awaits u' := rfl
@[simp] theorem link_setLine (r : Road) (l : Fin 4) (x : Line) (u' : UnitId) :
    (r.setLine l x).link u' = r.link u' := rfl
@[simp] theorem online_setLine (r : Road) (l : Fin 4) (x : Line) (u' : UnitId) :
    (r.setLine l x).online u' = r.online u' := rfl
@[simp] theorem sec_setLine (r : Road) (l : Fin 4) (x : Line) (j : Fin 8) :
    (r.setLine l x).sec j = r.sec j := rfl
@[simp] theorem secState_setLine (r : Road) (l : Fin 4) (x : Line) (j : Fin 8) :
    (r.setLine l x).secState j = r.secState j := rfl
@[simp] theorem gate_setLine (r : Road) (l : Fin 4) (x : Line) (j : Fin 16) :
    (r.setLine l x).gate j = r.gate j := rfl
@[simp] theorem input_setLine (r : Road) (l : Fin 4) (x : Line) (j : Fin 16) :
    (r.setLine l x).input j = r.input j := rfl
@[simp] theorem occOf_setLine (r : Road) (l : Fin 4) (x : Line) (j : Fin 8) :
    (r.setLine l x).occOf j = r.occOf j := rfl
@[simp] theorem path_setLine (r : Road) (l : Fin 4) (x : Line) (j : Fin 24) :
    (r.setLine l x).path j = r.path j := rfl
@[simp] theorem watchOf_setLine (r : Road) (l : Fin 4) (x : Line) (j : Fin 24) :
    (r.setLine l x).watchOf j = r.watchOf j := rfl
@[simp] theorem slot_setSec (r : Road) (i : Fin 8) (x : SectionRec) (j : Fin 256) :
    (r.setSec i x).slot j = r.slot j := rfl
@[simp] theorem named_setSec (r : Road) (i : Fin 8) (x : SectionRec) (h' : Handle) :
    (r.setSec i x).named h' = r.named h' := rfl
@[simp] theorem namedState_setSec (r : Road) (i : Fin 8) (x : SectionRec) (h' : Handle) :
    (r.setSec i x).namedState h' = r.namedState h' := rfl
@[simp] theorem version_setSec (r : Road) (i : Fin 8) (x : SectionRec) (h' : Handle) :
    (r.setSec i x).version h' = r.version h' := rfl
@[simp] theorem dirOf_setSec (r : Road) (i : Fin 8) (x : SectionRec) (u' : UnitId) :
    (r.setSec i x).dirOf u' = r.dirOf u' := rfl
@[simp] theorem awaits_setSec (r : Road) (i : Fin 8) (x : SectionRec) (u' : UnitId) :
    (r.setSec i x).awaits u' = r.awaits u' := rfl
@[simp] theorem link_setSec (r : Road) (i : Fin 8) (x : SectionRec) (u' : UnitId) :
    (r.setSec i x).link u' = r.link u' := rfl
@[simp] theorem online_setSec (r : Road) (i : Fin 8) (x : SectionRec) (u' : UnitId) :
    (r.setSec i x).online u' = r.online u' := rfl
@[simp] theorem line_setSec (r : Road) (i : Fin 8) (x : SectionRec) (l' : Fin 4) :
    (r.setSec i x).line l' = r.line l' := rfl
@[simp] theorem gate_setSec (r : Road) (i : Fin 8) (x : SectionRec) (j : Fin 16) :
    (r.setSec i x).gate j = r.gate j := rfl
@[simp] theorem input_setSec (r : Road) (i : Fin 8) (x : SectionRec) (j : Fin 16) :
    (r.setSec i x).input j = r.input j := rfl
@[simp] theorem occOf_setSec (r : Road) (i : Fin 8) (x : SectionRec) (j : Fin 8) :
    (r.setSec i x).occOf j = r.occOf j := rfl
@[simp] theorem path_setSec (r : Road) (i : Fin 8) (x : SectionRec) (j : Fin 24) :
    (r.setSec i x).path j = r.path j := rfl
@[simp] theorem watchOf_setSec (r : Road) (i : Fin 8) (x : SectionRec) (j : Fin 24) :
    (r.setSec i x).watchOf j = r.watchOf j := rfl
@[simp] theorem slot_setGate (r : Road) (g : Fin 16) (x : GateRec) (j : Fin 256) :
    (r.setGate g x).slot j = r.slot j := rfl
@[simp] theorem named_setGate (r : Road) (g : Fin 16) (x : GateRec) (h' : Handle) :
    (r.setGate g x).named h' = r.named h' := rfl
@[simp] theorem namedState_setGate (r : Road) (g : Fin 16) (x : GateRec) (h' : Handle) :
    (r.setGate g x).namedState h' = r.namedState h' := rfl
@[simp] theorem version_setGate (r : Road) (g : Fin 16) (x : GateRec) (h' : Handle) :
    (r.setGate g x).version h' = r.version h' := rfl
@[simp] theorem dirOf_setGate (r : Road) (g : Fin 16) (x : GateRec) (u' : UnitId) :
    (r.setGate g x).dirOf u' = r.dirOf u' := rfl
@[simp] theorem awaits_setGate (r : Road) (g : Fin 16) (x : GateRec) (u' : UnitId) :
    (r.setGate g x).awaits u' = r.awaits u' := rfl
@[simp] theorem link_setGate (r : Road) (g : Fin 16) (x : GateRec) (u' : UnitId) :
    (r.setGate g x).link u' = r.link u' := rfl
@[simp] theorem online_setGate (r : Road) (g : Fin 16) (x : GateRec) (u' : UnitId) :
    (r.setGate g x).online u' = r.online u' := rfl
@[simp] theorem line_setGate (r : Road) (g : Fin 16) (x : GateRec) (l' : Fin 4) :
    (r.setGate g x).line l' = r.line l' := rfl
@[simp] theorem sec_setGate (r : Road) (g : Fin 16) (x : GateRec) (j : Fin 8) :
    (r.setGate g x).sec j = r.sec j := rfl
@[simp] theorem secState_setGate (r : Road) (g : Fin 16) (x : GateRec) (j : Fin 8) :
    (r.setGate g x).secState j = r.secState j := rfl
@[simp] theorem input_setGate (r : Road) (g : Fin 16) (x : GateRec) (j : Fin 16) :
    (r.setGate g x).input j = r.input j := rfl
@[simp] theorem occOf_setGate (r : Road) (g : Fin 16) (x : GateRec) (j : Fin 8) :
    (r.setGate g x).occOf j = r.occOf j := rfl
@[simp] theorem path_setGate (r : Road) (g : Fin 16) (x : GateRec) (j : Fin 24) :
    (r.setGate g x).path j = r.path j := rfl
@[simp] theorem watchOf_setGate (r : Road) (g : Fin 16) (x : GateRec) (j : Fin 24) :
    (r.setGate g x).watchOf j = r.watchOf j := rfl
@[simp] theorem slot_setInput (r : Road) (i : Fin 16) (x : InputRec) (j : Fin 256) :
    (r.setInput i x).slot j = r.slot j := rfl
@[simp] theorem named_setInput (r : Road) (i : Fin 16) (x : InputRec) (h' : Handle) :
    (r.setInput i x).named h' = r.named h' := rfl
@[simp] theorem namedState_setInput (r : Road) (i : Fin 16) (x : InputRec) (h' : Handle) :
    (r.setInput i x).namedState h' = r.namedState h' := rfl
@[simp] theorem version_setInput (r : Road) (i : Fin 16) (x : InputRec) (h' : Handle) :
    (r.setInput i x).version h' = r.version h' := rfl
@[simp] theorem dirOf_setInput (r : Road) (i : Fin 16) (x : InputRec) (u' : UnitId) :
    (r.setInput i x).dirOf u' = r.dirOf u' := rfl
@[simp] theorem awaits_setInput (r : Road) (i : Fin 16) (x : InputRec) (u' : UnitId) :
    (r.setInput i x).awaits u' = r.awaits u' := rfl
@[simp] theorem link_setInput (r : Road) (i : Fin 16) (x : InputRec) (u' : UnitId) :
    (r.setInput i x).link u' = r.link u' := rfl
@[simp] theorem online_setInput (r : Road) (i : Fin 16) (x : InputRec) (u' : UnitId) :
    (r.setInput i x).online u' = r.online u' := rfl
@[simp] theorem line_setInput (r : Road) (i : Fin 16) (x : InputRec) (l' : Fin 4) :
    (r.setInput i x).line l' = r.line l' := rfl
@[simp] theorem sec_setInput (r : Road) (i : Fin 16) (x : InputRec) (j : Fin 8) :
    (r.setInput i x).sec j = r.sec j := rfl
@[simp] theorem secState_setInput (r : Road) (i : Fin 16) (x : InputRec) (j : Fin 8) :
    (r.setInput i x).secState j = r.secState j := rfl
@[simp] theorem gate_setInput (r : Road) (i : Fin 16) (x : InputRec) (j : Fin 16) :
    (r.setInput i x).gate j = r.gate j := rfl
@[simp] theorem occOf_setInput (r : Road) (i : Fin 16) (x : InputRec) (j : Fin 8) :
    (r.setInput i x).occOf j = r.occOf j := rfl
@[simp] theorem path_setInput (r : Road) (i : Fin 16) (x : InputRec) (j : Fin 24) :
    (r.setInput i x).path j = r.path j := rfl
@[simp] theorem watchOf_setInput (r : Road) (i : Fin 16) (x : InputRec) (j : Fin 24) :
    (r.setInput i x).watchOf j = r.watchOf j := rfl
@[simp] theorem slot_setOcc (r : Road) (i : Fin 8) (x : Occ) (j : Fin 256) :
    (r.setOcc i x).slot j = r.slot j := rfl
@[simp] theorem named_setOcc (r : Road) (i : Fin 8) (x : Occ) (h' : Handle) :
    (r.setOcc i x).named h' = r.named h' := rfl
@[simp] theorem namedState_setOcc (r : Road) (i : Fin 8) (x : Occ) (h' : Handle) :
    (r.setOcc i x).namedState h' = r.namedState h' := rfl
@[simp] theorem version_setOcc (r : Road) (i : Fin 8) (x : Occ) (h' : Handle) :
    (r.setOcc i x).version h' = r.version h' := rfl
@[simp] theorem dirOf_setOcc (r : Road) (i : Fin 8) (x : Occ) (u' : UnitId) :
    (r.setOcc i x).dirOf u' = r.dirOf u' := rfl
@[simp] theorem awaits_setOcc (r : Road) (i : Fin 8) (x : Occ) (u' : UnitId) :
    (r.setOcc i x).awaits u' = r.awaits u' := rfl
@[simp] theorem link_setOcc (r : Road) (i : Fin 8) (x : Occ) (u' : UnitId) :
    (r.setOcc i x).link u' = r.link u' := rfl
@[simp] theorem online_setOcc (r : Road) (i : Fin 8) (x : Occ) (u' : UnitId) :
    (r.setOcc i x).online u' = r.online u' := rfl
@[simp] theorem line_setOcc (r : Road) (i : Fin 8) (x : Occ) (l' : Fin 4) :
    (r.setOcc i x).line l' = r.line l' := rfl
@[simp] theorem sec_setOcc (r : Road) (i : Fin 8) (x : Occ) (j : Fin 8) :
    (r.setOcc i x).sec j = r.sec j := rfl
@[simp] theorem secState_setOcc (r : Road) (i : Fin 8) (x : Occ) (j : Fin 8) :
    (r.setOcc i x).secState j = r.secState j := rfl
@[simp] theorem gate_setOcc (r : Road) (i : Fin 8) (x : Occ) (j : Fin 16) :
    (r.setOcc i x).gate j = r.gate j := rfl
@[simp] theorem input_setOcc (r : Road) (i : Fin 8) (x : Occ) (j : Fin 16) :
    (r.setOcc i x).input j = r.input j := rfl
@[simp] theorem path_setOcc (r : Road) (i : Fin 8) (x : Occ) (j : Fin 24) :
    (r.setOcc i x).path j = r.path j := rfl
@[simp] theorem watchOf_setOcc (r : Road) (i : Fin 8) (x : Occ) (j : Fin 24) :
    (r.setOcc i x).watchOf j = r.watchOf j := rfl
@[simp] theorem slot_setPath (r : Road) (p : Fin 24) (x : PathRec) (j : Fin 256) :
    (r.setPath p x).slot j = r.slot j := rfl
@[simp] theorem named_setPath (r : Road) (p : Fin 24) (x : PathRec) (h' : Handle) :
    (r.setPath p x).named h' = r.named h' := rfl
@[simp] theorem namedState_setPath (r : Road) (p : Fin 24) (x : PathRec) (h' : Handle) :
    (r.setPath p x).namedState h' = r.namedState h' := rfl
@[simp] theorem version_setPath (r : Road) (p : Fin 24) (x : PathRec) (h' : Handle) :
    (r.setPath p x).version h' = r.version h' := rfl
@[simp] theorem dirOf_setPath (r : Road) (p : Fin 24) (x : PathRec) (u' : UnitId) :
    (r.setPath p x).dirOf u' = r.dirOf u' := rfl
@[simp] theorem awaits_setPath (r : Road) (p : Fin 24) (x : PathRec) (u' : UnitId) :
    (r.setPath p x).awaits u' = r.awaits u' := rfl
@[simp] theorem link_setPath (r : Road) (p : Fin 24) (x : PathRec) (u' : UnitId) :
    (r.setPath p x).link u' = r.link u' := rfl
@[simp] theorem online_setPath (r : Road) (p : Fin 24) (x : PathRec) (u' : UnitId) :
    (r.setPath p x).online u' = r.online u' := rfl
@[simp] theorem line_setPath (r : Road) (p : Fin 24) (x : PathRec) (l' : Fin 4) :
    (r.setPath p x).line l' = r.line l' := rfl
@[simp] theorem sec_setPath (r : Road) (p : Fin 24) (x : PathRec) (j : Fin 8) :
    (r.setPath p x).sec j = r.sec j := rfl
@[simp] theorem secState_setPath (r : Road) (p : Fin 24) (x : PathRec) (j : Fin 8) :
    (r.setPath p x).secState j = r.secState j := rfl
@[simp] theorem gate_setPath (r : Road) (p : Fin 24) (x : PathRec) (j : Fin 16) :
    (r.setPath p x).gate j = r.gate j := rfl
@[simp] theorem input_setPath (r : Road) (p : Fin 24) (x : PathRec) (j : Fin 16) :
    (r.setPath p x).input j = r.input j := rfl
@[simp] theorem occOf_setPath (r : Road) (p : Fin 24) (x : PathRec) (j : Fin 8) :
    (r.setPath p x).occOf j = r.occOf j := rfl
@[simp] theorem slot_raise (r : Road) (f : Flag) (j : Fin 256) :
    (r.raise f).slot j = r.slot j := rfl
@[simp] theorem named_raise (r : Road) (f : Flag) (h' : Handle) :
    (r.raise f).named h' = r.named h' := rfl
@[simp] theorem namedState_raise (r : Road) (f : Flag) (h' : Handle) :
    (r.raise f).namedState h' = r.namedState h' := rfl
@[simp] theorem version_raise (r : Road) (f : Flag) (h' : Handle) :
    (r.raise f).version h' = r.version h' := rfl
@[simp] theorem dirOf_raise (r : Road) (f : Flag) (u' : UnitId) :
    (r.raise f).dirOf u' = r.dirOf u' := rfl
@[simp] theorem awaits_raise (r : Road) (f : Flag) (u' : UnitId) :
    (r.raise f).awaits u' = r.awaits u' := rfl
@[simp] theorem link_raise (r : Road) (f : Flag) (u' : UnitId) :
    (r.raise f).link u' = r.link u' := rfl
@[simp] theorem online_raise (r : Road) (f : Flag) (u' : UnitId) :
    (r.raise f).online u' = r.online u' := rfl
@[simp] theorem line_raise (r : Road) (f : Flag) (l' : Fin 4) :
    (r.raise f).line l' = r.line l' := rfl
@[simp] theorem sec_raise (r : Road) (f : Flag) (j : Fin 8) :
    (r.raise f).sec j = r.sec j := rfl
@[simp] theorem secState_raise (r : Road) (f : Flag) (j : Fin 8) :
    (r.raise f).secState j = r.secState j := rfl
@[simp] theorem gate_raise (r : Road) (f : Flag) (j : Fin 16) :
    (r.raise f).gate j = r.gate j := rfl
@[simp] theorem input_raise (r : Road) (f : Flag) (j : Fin 16) :
    (r.raise f).input j = r.input j := rfl
@[simp] theorem occOf_raise (r : Road) (f : Flag) (j : Fin 8) :
    (r.raise f).occOf j = r.occOf j := rfl
@[simp] theorem path_raise (r : Road) (f : Flag) (j : Fin 24) :
    (r.raise f).path j = r.path j := rfl
@[simp] theorem watchOf_raise (r : Road) (f : Flag) (j : Fin 24) :
    (r.raise f).watchOf j = r.watchOf j := rfl
@[simp] theorem dirOf_setPosting (r : Road) (i : Fin 256) (p : Posting) (u' : UnitId) :
    (r.setPosting i p).dirOf u' = r.dirOf u' := rfl
@[simp] theorem awaits_setPosting (r : Road) (i : Fin 256) (p : Posting) (u' : UnitId) :
    (r.setPosting i p).awaits u' = r.awaits u' := rfl
@[simp] theorem link_setPosting (r : Road) (i : Fin 256) (p : Posting) (u' : UnitId) :
    (r.setPosting i p).link u' = r.link u' := rfl
@[simp] theorem online_setPosting (r : Road) (i : Fin 256) (p : Posting) (u' : UnitId) :
    (r.setPosting i p).online u' = r.online u' := rfl
@[simp] theorem line_setPosting (r : Road) (i : Fin 256) (p : Posting) (l' : Fin 4) :
    (r.setPosting i p).line l' = r.line l' := rfl
@[simp] theorem sec_setPosting (r : Road) (i : Fin 256) (p : Posting) (j : Fin 8) :
    (r.setPosting i p).sec j = r.sec j := rfl
@[simp] theorem secState_setPosting (r : Road) (i : Fin 256) (p : Posting) (j : Fin 8) :
    (r.setPosting i p).secState j = r.secState j := rfl
@[simp] theorem gate_setPosting (r : Road) (i : Fin 256) (p : Posting) (j : Fin 16) :
    (r.setPosting i p).gate j = r.gate j := rfl
@[simp] theorem input_setPosting (r : Road) (i : Fin 256) (p : Posting) (j : Fin 16) :
    (r.setPosting i p).input j = r.input j := rfl
@[simp] theorem occOf_setPosting (r : Road) (i : Fin 256) (p : Posting) (j : Fin 8) :
    (r.setPosting i p).occOf j = r.occOf j := rfl
@[simp] theorem path_setPosting (r : Road) (i : Fin 256) (p : Posting) (j : Fin 24) :
    (r.setPosting i p).path j = r.path j := rfl
@[simp] theorem watchOf_setPosting (r : Road) (i : Fin 256) (p : Posting) (j : Fin 24) :
    (r.setPosting i p).watchOf j = r.watchOf j := rfl
@[simp] theorem dirOf_bumpVersion (r : Road) (i : Fin 256) (u' : UnitId) :
    (r.bumpVersion i).dirOf u' = r.dirOf u' := rfl
@[simp] theorem awaits_bumpVersion (r : Road) (i : Fin 256) (u' : UnitId) :
    (r.bumpVersion i).awaits u' = r.awaits u' := rfl
@[simp] theorem link_bumpVersion (r : Road) (i : Fin 256) (u' : UnitId) :
    (r.bumpVersion i).link u' = r.link u' := rfl
@[simp] theorem online_bumpVersion (r : Road) (i : Fin 256) (u' : UnitId) :
    (r.bumpVersion i).online u' = r.online u' := rfl
@[simp] theorem line_bumpVersion (r : Road) (i : Fin 256) (l' : Fin 4) :
    (r.bumpVersion i).line l' = r.line l' := rfl
@[simp] theorem sec_bumpVersion (r : Road) (i : Fin 256) (j : Fin 8) :
    (r.bumpVersion i).sec j = r.sec j := rfl
@[simp] theorem secState_bumpVersion (r : Road) (i : Fin 256) (j : Fin 8) :
    (r.bumpVersion i).secState j = r.secState j := rfl
@[simp] theorem gate_bumpVersion (r : Road) (i : Fin 256) (j : Fin 16) :
    (r.bumpVersion i).gate j = r.gate j := rfl
@[simp] theorem input_bumpVersion (r : Road) (i : Fin 256) (j : Fin 16) :
    (r.bumpVersion i).input j = r.input j := rfl
@[simp] theorem occOf_bumpVersion (r : Road) (i : Fin 256) (j : Fin 8) :
    (r.bumpVersion i).occOf j = r.occOf j := rfl
@[simp] theorem path_bumpVersion (r : Road) (i : Fin 256) (j : Fin 24) :
    (r.bumpVersion i).path j = r.path j := rfl
@[simp] theorem watchOf_bumpVersion (r : Road) (i : Fin 256) (j : Fin 24) :
    (r.bumpVersion i).watchOf j = r.watchOf j := rfl
@[simp] theorem slot_markCopies (r : Road) (h : Handle) (o : Bool) (j : Fin 256) :
    (r.markCopies h o).slot j = r.slot j := rfl
@[simp] theorem named_markCopies (r : Road) (h : Handle) (o : Bool) (h' : Handle) :
    (r.markCopies h o).named h' = r.named h' := rfl
@[simp] theorem namedState_markCopies (r : Road) (h : Handle) (o : Bool) (h' : Handle) :
    (r.markCopies h o).namedState h' = r.namedState h' := rfl
@[simp] theorem version_markCopies (r : Road) (h : Handle) (o : Bool) (h' : Handle) :
    (r.markCopies h o).version h' = r.version h' := rfl
@[simp] theorem awaits_markCopies (r : Road) (h : Handle) (o : Bool) (u' : UnitId) :
    (r.markCopies h o).awaits u' = r.awaits u' := rfl
@[simp] theorem link_markCopies (r : Road) (h : Handle) (o : Bool) (u' : UnitId) :
    (r.markCopies h o).link u' = r.link u' := rfl
@[simp] theorem online_markCopies (r : Road) (h : Handle) (o : Bool) (u' : UnitId) :
    (r.markCopies h o).online u' = r.online u' := rfl
@[simp] theorem line_markCopies (r : Road) (h : Handle) (o : Bool) (l' : Fin 4) :
    (r.markCopies h o).line l' = r.line l' := rfl
@[simp] theorem sec_markCopies (r : Road) (h : Handle) (o : Bool) (j : Fin 8) :
    (r.markCopies h o).sec j = r.sec j := rfl
@[simp] theorem secState_markCopies (r : Road) (h : Handle) (o : Bool) (j : Fin 8) :
    (r.markCopies h o).secState j = r.secState j := rfl
@[simp] theorem gate_markCopies (r : Road) (h : Handle) (o : Bool) (j : Fin 16) :
    (r.markCopies h o).gate j = r.gate j := rfl
@[simp] theorem input_markCopies (r : Road) (h : Handle) (o : Bool) (j : Fin 16) :
    (r.markCopies h o).input j = r.input j := rfl
@[simp] theorem occOf_markCopies (r : Road) (h : Handle) (o : Bool) (j : Fin 8) :
    (r.markCopies h o).occOf j = r.occOf j := rfl
@[simp] theorem path_markCopies (r : Road) (h : Handle) (o : Bool) (j : Fin 24) :
    (r.markCopies h o).path j = r.path j := rfl
@[simp] theorem watchOf_markCopies (r : Road) (h : Handle) (o : Bool) (j : Fin 24) :
    (r.markCopies h o).watchOf j = r.watchOf j := rfl
@[simp] theorem slot_endPart (r : Road) (u : UnitId) (j : Fin 256) :
    (r.endPart u).slot j = r.slot j := rfl
@[simp] theorem named_endPart (r : Road) (u : UnitId) (h' : Handle) :
    (r.endPart u).named h' = r.named h' := rfl
@[simp] theorem namedState_endPart (r : Road) (u : UnitId) (h' : Handle) :
    (r.endPart u).namedState h' = r.namedState h' := rfl
@[simp] theorem version_endPart (r : Road) (u : UnitId) (h' : Handle) :
    (r.endPart u).version h' = r.version h' := rfl
@[simp] theorem dirOf_endPart (r : Road) (u : UnitId) (u' : UnitId) :
    (r.endPart u).dirOf u' = r.dirOf u' := rfl
@[simp] theorem awaits_endPart (r : Road) (u : UnitId) (u' : UnitId) :
    (r.endPart u).awaits u' = r.awaits u' := rfl
@[simp] theorem link_endPart (r : Road) (u : UnitId) (u' : UnitId) :
    (r.endPart u).link u' = r.link u' := rfl
@[simp] theorem online_endPart (r : Road) (u : UnitId) (u' : UnitId) :
    (r.endPart u).online u' = r.online u' := rfl
@[simp] theorem line_endPart (r : Road) (u : UnitId) (l' : Fin 4) :
    (r.endPart u).line l' = r.line l' := rfl
@[simp] theorem sec_endPart (r : Road) (u : UnitId) (j : Fin 8) :
    (r.endPart u).sec j = r.sec j := rfl
@[simp] theorem secState_endPart (r : Road) (u : UnitId) (j : Fin 8) :
    (r.endPart u).secState j = r.secState j := rfl
@[simp] theorem gate_endPart (r : Road) (u : UnitId) (j : Fin 16) :
    (r.endPart u).gate j = r.gate j := rfl
@[simp] theorem input_endPart (r : Road) (u : UnitId) (j : Fin 16) :
    (r.endPart u).input j = r.input j := rfl
@[simp] theorem occOf_endPart (r : Road) (u : UnitId) (j : Fin 8) :
    (r.endPart u).occOf j = r.occOf j := rfl
@[simp] theorem path_endPart (r : Road) (u : UnitId) (j : Fin 24) :
    (r.endPart u).path j = r.path j := rfl
@[simp] theorem watchOf_endPart (r : Road) (u : UnitId) (j : Fin 24) :
    (r.endPart u).watchOf j = r.watchOf j := rfl
@[simp] theorem slot_endFetch (r : Road) (f : FetchItem → Bool) (j : Fin 256) :
    (r.endFetch f).slot j = r.slot j := rfl
@[simp] theorem named_endFetch (r : Road) (f : FetchItem → Bool) (h' : Handle) :
    (r.endFetch f).named h' = r.named h' := rfl
@[simp] theorem namedState_endFetch (r : Road) (f : FetchItem → Bool) (h' : Handle) :
    (r.endFetch f).namedState h' = r.namedState h' := rfl
@[simp] theorem version_endFetch (r : Road) (f : FetchItem → Bool) (h' : Handle) :
    (r.endFetch f).version h' = r.version h' := rfl
@[simp] theorem dirOf_endFetch (r : Road) (f : FetchItem → Bool) (u' : UnitId) :
    (r.endFetch f).dirOf u' = r.dirOf u' := rfl
@[simp] theorem awaits_endFetch (r : Road) (f : FetchItem → Bool) (u' : UnitId) :
    (r.endFetch f).awaits u' = r.awaits u' := rfl
@[simp] theorem link_endFetch (r : Road) (f : FetchItem → Bool) (u' : UnitId) :
    (r.endFetch f).link u' = r.link u' := rfl
@[simp] theorem online_endFetch (r : Road) (f : FetchItem → Bool) (u' : UnitId) :
    (r.endFetch f).online u' = r.online u' := rfl
@[simp] theorem line_endFetch (r : Road) (f : FetchItem → Bool) (l' : Fin 4) :
    (r.endFetch f).line l' = r.line l' := rfl
@[simp] theorem sec_endFetch (r : Road) (f : FetchItem → Bool) (j : Fin 8) :
    (r.endFetch f).sec j = r.sec j := rfl
@[simp] theorem secState_endFetch (r : Road) (f : FetchItem → Bool) (j : Fin 8) :
    (r.endFetch f).secState j = r.secState j := rfl
@[simp] theorem gate_endFetch (r : Road) (f : FetchItem → Bool) (j : Fin 16) :
    (r.endFetch f).gate j = r.gate j := rfl
@[simp] theorem input_endFetch (r : Road) (f : FetchItem → Bool) (j : Fin 16) :
    (r.endFetch f).input j = r.input j := rfl
@[simp] theorem occOf_endFetch (r : Road) (f : FetchItem → Bool) (j : Fin 8) :
    (r.endFetch f).occOf j = r.occOf j := rfl
@[simp] theorem path_endFetch (r : Road) (f : FetchItem → Bool) (j : Fin 24) :
    (r.endFetch f).path j = r.path j := rfl
@[simp] theorem watchOf_endFetch (r : Road) (f : FetchItem → Bool) (j : Fin 24) :
    (r.endFetch f).watchOf j = r.watchOf j := rfl
@[simp] theorem slot_send (r : Road) (l : Fin 4) (a : Fin 12) (s : Sent) (j : Fin 256) :
    (r.send l a s).slot j = r.slot j := rfl
@[simp] theorem named_send (r : Road) (l : Fin 4) (a : Fin 12) (s : Sent) (h' : Handle) :
    (r.send l a s).named h' = r.named h' := rfl
@[simp] theorem namedState_send (r : Road) (l : Fin 4) (a : Fin 12) (s : Sent) (h' : Handle) :
    (r.send l a s).namedState h' = r.namedState h' := rfl
@[simp] theorem version_send (r : Road) (l : Fin 4) (a : Fin 12) (s : Sent) (h' : Handle) :
    (r.send l a s).version h' = r.version h' := rfl
@[simp] theorem dirOf_send (r : Road) (l : Fin 4) (a : Fin 12) (s : Sent) (u' : UnitId) :
    (r.send l a s).dirOf u' = r.dirOf u' := rfl
@[simp] theorem awaits_send (r : Road) (l : Fin 4) (a : Fin 12) (s : Sent) (u' : UnitId) :
    (r.send l a s).awaits u' = r.awaits u' := rfl
@[simp] theorem link_send (r : Road) (l : Fin 4) (a : Fin 12) (s : Sent) (u' : UnitId) :
    (r.send l a s).link u' = r.link u' := rfl
@[simp] theorem online_send (r : Road) (l : Fin 4) (a : Fin 12) (s : Sent) (u' : UnitId) :
    (r.send l a s).online u' = r.online u' := rfl
@[simp] theorem sec_send (r : Road) (l : Fin 4) (a : Fin 12) (s : Sent) (j : Fin 8) :
    (r.send l a s).sec j = r.sec j := rfl
@[simp] theorem secState_send (r : Road) (l : Fin 4) (a : Fin 12) (s : Sent) (j : Fin 8) :
    (r.send l a s).secState j = r.secState j := rfl
@[simp] theorem gate_send (r : Road) (l : Fin 4) (a : Fin 12) (s : Sent) (j : Fin 16) :
    (r.send l a s).gate j = r.gate j := rfl
@[simp] theorem input_send (r : Road) (l : Fin 4) (a : Fin 12) (s : Sent) (j : Fin 16) :
    (r.send l a s).input j = r.input j := rfl
@[simp] theorem occOf_send (r : Road) (l : Fin 4) (a : Fin 12) (s : Sent) (j : Fin 8) :
    (r.send l a s).occOf j = r.occOf j := rfl
@[simp] theorem path_send (r : Road) (l : Fin 4) (a : Fin 12) (s : Sent) (j : Fin 24) :
    (r.send l a s).path j = r.path j := rfl
@[simp] theorem watchOf_send (r : Road) (l : Fin 4) (a : Fin 12) (s : Sent) (j : Fin 24) :
    (r.send l a s).watchOf j = r.watchOf j := rfl

end Sys2Proof.Machine
end

