-- ==== Sys2Proof/Laws/Items.lean ====
section
/-! SUPPORT. What the head entry has for a line, said once in terms of table, directory and plan: the
wanted set of a unit (R73), its next item (R81, R82), and the transfer offered (R78, R80). -/

namespace Sys2Proof.Machine

namespace Items

/-! ### The indexes of a list's entries -/

theorem mem_indexesFrom {α : Type} (f : α → Bool) :
    ∀ (l : List α) (k n : Nat), n ∈ indexesFrom k f l ↔ ∃ m x, n = k + m ∧ l[m]? = some x ∧ f x = true
  | [], k, n => by simp [indexesFrom]
  | y :: ys, k, n => by
    have ih := mem_indexesFrom f ys (k + 1) n
    have step : (∃ m x, n = k + m ∧ (y :: ys)[m]? = some x ∧ f x = true) ↔
        (n = k ∧ f y = true) ∨ ∃ m x, n = k + 1 + m ∧ ys[m]? = some x ∧ f x = true := by
      constructor
      · rintro ⟨m, x, hn, hx, hf⟩
        cases m with
        | zero =>
          rw [List.getElem?_cons_zero] at hx
          cases hx
          exact .inl ⟨hn, hf⟩
        | succ m =>
          rw [List.getElem?_cons_succ] at hx
          exact .inr ⟨m, x, by omega, hx, hf⟩
      · rintro (⟨hn, hf⟩ | ⟨m, x, hn, hx, hf⟩)
        · exact ⟨0, y, hn, rfl, hf⟩
        · exact ⟨m + 1, x, by omega, by rw [List.getElem?_cons_succ]; exact hx, hf⟩
    rw [step, ← ih, show indexesFrom k f (y :: ys) =
      if f y then k :: indexesFrom (k + 1) f ys else indexesFrom (k + 1) f ys from rfl]
    by_cases h : f y = true <;> simp [h]

theorem indexesFrom_sorted {α : Type} (f : α → Bool) :
    ∀ (l : List α) (k : Nat), (indexesFrom k f l).Pairwise (· < ·)
  | [], _ => List.Pairwise.nil
  | y :: ys, k => by
    unfold indexesFrom
    split
    · refine List.pairwise_cons.mpr ⟨fun n hn => ?_, indexesFrom_sorted f ys (k + 1)⟩
      obtain ⟨m, _, hn, _⟩ := (mem_indexesFrom f ys (k + 1) n).mp hn
      omega
    · exact indexesFrom_sorted f ys (k + 1)

/-- The first index is the lowest place that passes. -/
theorem head_indexes {α : Type} {f : α → Bool} {l : List α} {n : Nat}
    (h : (indexes f l).head? = some n) :
    (∃ x, l[n]? = some x ∧ f x = true) ∧ ∀ (m : Nat) x, l[m]? = some x → f x = true → n ≤ m := by
  unfold indexes at h
  have sorted := indexesFrom_sorted f l 0
  cases hl : indexesFrom 0 f l with
  | nil => rw [hl] at h; cases h
  | cons a as =>
    rw [hl] at h
    cases h
    constructor
    · obtain ⟨m, x, hn, hx, hf⟩ := (mem_indexesFrom f l 0 n).mp (by rw [hl]; exact List.mem_cons_self)
      rw [Nat.zero_add] at hn
      exact ⟨x, hn ▸ hx, hf⟩
    · intro m x hx hf
      have hm := (mem_indexesFrom f l 0 m).mpr ⟨m, x, by omega, hx, hf⟩
      rw [hl] at hm sorted
      rcases List.mem_cons.mp hm with h | h
      · omega
      · exact Nat.le_of_lt ((List.pairwise_cons.mp sorted).1 m h)

theorem head_indexes_none {α : Type} {f : α → Bool} {l : List α}
    (h : (indexes f l).head? = none) (m : Nat) (x : α) (hx : l[m]? = some x) : f x = false := by
  rw [List.head?_eq_none_iff] at h
  by_contra hf
  have hm := (mem_indexesFrom f l 0 m).mpr ⟨m, x, by omega, hx, by simpa using hf⟩
  unfold indexes at h
  rw [h] at hm
  cases hm

/-! ### The ranking order (R33) -/

theorem rank_inj {a b : PKind} (h : a.rank = b.rank) : a = b := by
  cases a <;> cases b <;> first | rfl | cases h

theorem ranksBefore_iff (ref : Nat) (dir : Dir) (a b : Fin 256 × Posting) :
    ranksBefore ref dir a b = true ↔ b.2.severity < a.2.severity ∨ a.2.severity = b.2.severity ∧
      (a.2.kind.rank < b.2.kind.rank ∨ a.2.kind.rank = b.2.kind.rank ∧
        (distance ref dir a.2 < distance ref dir b.2 ∨
          distance ref dir a.2 = distance ref dir b.2 ∧ a.1.val < b.1.val)) := by
  have hk : a.2.kind ≠ b.2.kind ↔ a.2.kind.rank ≠ b.2.kind.rank :=
    ⟨fun h h' => h (rank_inj h'), fun h h' => h (by rw [h'])⟩
  unfold ranksBefore
  split
  · rename_i h1
    rw [decide_eq_true_iff]
    omega
  · rename_i h1
    split
    · rename_i h2
      rw [hk] at h2
      rw [decide_eq_true_iff]
      omega
    · rename_i h2
      rw [hk] at h2
      split
      · rename_i h3
        rw [decide_eq_true_iff]
        omega
      · rename_i h3
        rw [decide_eq_true_iff]
        omega

theorem ranksBefore_trans {ref : Nat} {dir : Dir} {a b c : Fin 256 × Posting}
    (h : ranksBefore ref dir a b = true) (h' : ranksBefore ref dir b c = true) :
    ranksBefore ref dir a c = true := by
  rw [ranksBefore_iff] at h h' ⊢
  omega

theorem ranksBefore_asymm {ref : Nat} {dir : Dir} {a b : Fin 256 × Posting}
    (h : ranksBefore ref dir a b = true) : ranksBefore ref dir b a = false := by
  rw [← Bool.not_eq_true]
  rw [ranksBefore_iff] at h ⊢
  omega

theorem ranksBefore_total {ref : Nat} {dir : Dir} {a b : Fin 256 × Posting} (h : a.1 ≠ b.1)
    (h' : ranksBefore ref dir a b = false) : ranksBefore ref dir b a = true := by
  rw [← Bool.not_eq_true] at h'
  rw [ranksBefore_iff] at h' ⊢
  have : a.1.val ≠ b.1.val := fun x => h (Fin.ext x)
  omega

theorem rankInsert_perm (ref : Nat) (dir : Dir) (x : Fin 256 × Posting) :
    ∀ l, (rankInsert ref dir x l).Perm (x :: l)
  | [] => List.Perm.refl _
  | y :: ys => by
    unfold rankInsert
    split
    · exact List.Perm.refl _
    · exact ((rankInsert_perm ref dir x ys).cons y).trans (List.Perm.swap x y ys)

theorem ranked_perm (ref : Nat) (dir : Dir) : ∀ l, (ranked ref dir l).Perm l
  | [] => List.Perm.refl _
  | x :: xs => (rankInsert_perm ref dir x _).trans ((ranked_perm ref dir xs).cons x)

theorem rankInsert_sorted (ref : Nat) (dir : Dir) (x : Fin 256 × Posting) :
    ∀ l : List (Fin 256 × Posting), l.Pairwise (fun a b => ranksBefore ref dir a b = true) →
      (∀ y ∈ l, x.1 ≠ y.1) →
      (rankInsert ref dir x l).Pairwise fun a b => ranksBefore ref dir a b = true
  | [], _, _ => List.pairwise_singleton _ _
  | y :: ys, hs, hn => by
    obtain ⟨hy, hys⟩ := List.pairwise_cons.mp hs
    unfold rankInsert
    split
    · rename_i h
      exact List.pairwise_cons.mpr ⟨fun z hz => (List.mem_cons.mp hz).elim (fun e => e ▸ h)
        fun hz => ranksBefore_trans h (hy z hz), hs⟩
    · rename_i h
      refine List.pairwise_cons.mpr ⟨fun z hz => ?_,
        rankInsert_sorted ref dir x ys hys fun z hz => hn z (List.mem_cons_of_mem y hz)⟩
      rcases List.mem_cons.mp ((rankInsert_perm ref dir x ys).mem_iff.mp hz) with hz | hz
      · rw [hz]
        exact ranksBefore_total (hn y List.mem_cons_self) (by simpa using h)
      · exact hy z hz

theorem ranked_sorted (ref : Nat) (dir : Dir) : ∀ l : List (Fin 256 × Posting),
    (l.map Prod.fst).Nodup → (ranked ref dir l).Pairwise fun a b => ranksBefore ref dir a b = true
  | [], _ => List.Pairwise.nil
  | x :: xs, h => by
    obtain ⟨h1, h2⟩ := List.nodup_cons.mp h
    refine rankInsert_sorted ref dir x _ (ranked_sorted ref dir xs h2) fun y hy e => h1 ?_
    rw [e]
    exact List.mem_map_of_mem ((ranked_perm ref dir xs).mem_iff.mp hy)

/-- In a ranked list the first `k` are those with fewer than `k` before them. -/
theorem mem_take {α : Type} (f : α → α → Bool) (asymm : ∀ a b, f a b = true → f b a = false) :
    ∀ (l : List α) (k : Nat) (x : α), l.Pairwise (fun a b => f a b = true) →
      (x ∈ l.take k ↔ x ∈ l ∧ (l.filter fun y => f y x).length < k)
  | [], k, x, _ => by simp
  | y :: ys, 0, x, _ => by simp
  | y :: ys, k + 1, x, h => by
    obtain ⟨hy, hys⟩ := List.pairwise_cons.mp h
    have ih := mem_take f asymm ys k x hys
    have irrefl : ∀ a, f a a = false := fun a => by
      by_contra hf
      exact hf (asymm a a (by simpa using hf))
    rw [List.take_succ_cons, List.mem_cons, List.mem_cons, List.filter_cons]
    by_cases hx : x = y
    · subst hx
      have none : (ys.filter fun z => f z x) = [] :=
        List.filter_eq_nil_iff.mpr fun z hz => by simp [asymm x z (hy z hz)]
      simp [irrefl, none]
    · by_cases hm : x ∈ ys
      · simp only [hx, false_or, ih, hm, true_and, hy x hm, if_true, List.length_cons]
        omega
      · have : x ∉ ys.take k := fun h' => hm (List.mem_of_mem_take h')
        simp [hx, hm, this]

/-! ### The wanted set (R73) -/

theorem named_iff {r : Road} {h : Handle} {p : Posting} :
    r.named h = some p ↔ (r.slot h.slot).gen = h.gen ∧ (r.slot h.slot).posting = some p := by
  unfold Road.named
  split <;> simp_all

theorem named_handleAt {r : Road} {i : Fin 256} : r.named (r.handleAt i) = (r.slot i).posting := by
  unfold Road.named Road.handleAt
  simp

theorem handleAt_of_named {r : Road} {h : Handle} {p : Posting} (hp : r.named h = some p) :
    r.handleAt h.slot = h := by
  unfold Road.handleAt
  rw [(named_iff.mp hp).1]

theorem mem_postings {r : Road} {x : Fin 256 × Posting} :
    x ∈ r.postings ↔ (r.slot x.1).posting = some x.2 := by
  unfold Road.postings allSlots
  rw [List.mem_filterMap]
  constructor
  · rintro ⟨i, _, hi⟩
    obtain ⟨p, hp, rfl⟩ := Option.map_eq_some_iff.mp hi
    exact hp
  · intro h
    exact ⟨x.1, List.mem_finRange _, by rw [h]; rfl⟩

theorem postings_fst (r : Road) : (r.postings.map Prod.fst).Nodup := by
  have h : ∀ l : List (Fin 256), l.Nodup →
      (((l.filterMap fun i => (r.slot i).posting.map fun p => (i, p))).map Prod.fst).Nodup := by
    intro l hl
    induction l with
    | nil => exact List.nodup_nil
    | cons a as ih =>
      obtain ⟨h1, h2⟩ := List.nodup_cons.mp hl
      rw [List.filterMap_cons]
      cases hp : (r.slot a).posting with
      | none => simpa using ih h2
      | some p =>
        refine List.nodup_cons.mpr ⟨fun hm => h1 ?_, ih h2⟩
        obtain ⟨x, hx, he⟩ := List.mem_map.mp hm
        obtain ⟨i, hi, hi'⟩ := List.mem_filterMap.mp hx
        obtain ⟨q, _, rfl⟩ := Option.map_eq_some_iff.mp hi'
        have he : i = a := he
        exact he ▸ hi
  exact h _ (List.nodup_finRange 256)

/-- What qualifies, as the model tests it. -/
theorem qualifies_eq (e : Env) (v : View) (mask : BitVec 5) (p : Posting) :
    (p.state == .active && v.meets e.roadLen p.first p.last && inMask mask p.kind) =
      qualifies e v mask p := by
  unfold qualifies sees View.meets View.lo View.hi meets inMask
  cases v.dir <;> rfl

theorem mem_qualified {e : Env} {r : Road} {v : View} {mask : BitVec 5} {x : Fin 256 × Posting} :
    x ∈ r.qualified e.roadLen v mask ↔
      (r.slot x.1).posting = some x.2 ∧ qualifies e v mask x.2 = true := by
  unfold Road.qualified
  rw [(ranked_perm _ _ _).mem_iff, List.mem_filter, mem_postings, qualifies_eq]

theorem qualified_sorted (e : Env) (r : Road) (v : View) (mask : BitVec 5) :
    (r.qualified e.roadLen v mask).Pairwise fun a b => ranksBefore v.first v.dir a b = true :=
  ranked_sorted _ _ _ ((List.filter_sublist.map Prod.fst).nodup (postings_fst r))

/-- How many qualifying postings rank before a place. -/
theorem qualified_above (e : Env) (r : Road) (v : View) (mask : BitVec 5) (i : Fin 256) (p : Posting) :
    ((r.qualified e.roadLen v mask).filter fun y => ranksBefore v.first v.dir y (i, p)).length =
      (r.rankedAbove e v mask i p).length := by
  unfold Road.qualified Road.rankedAbove
  rw [((ranked_perm _ _ _).filter _).length_eq, List.filter_filter]
  unfold Road.postings
  induction allSlots with
  | nil => rfl
  | cons a as ih =>
    rw [List.filterMap_cons, List.filter_cons]
    cases hp : (r.slot a).posting with
    | none => simpa [hp] using ih
    | some q =>
      simp only [Option.map_some, List.filter_cons, Option.any_some, qualifies_eq] at ih ⊢
      rw [Bool.and_comm]
      split <;> simpa using ih

/-- The model's wanted set is the one R73 gives. -/
theorem mem_wanted {e : Env} {r : Road} {u : UnitId} {h : Handle} :
    h ∈ r.wanted e u ↔ Wants e r u h := by
  unfold Road.wanted Wants
  cases hu : e.plan.unit u with
  | none => simp
  | some x =>
    cases hv : x.view? with
    | none => simp [hv]
    | some v =>
      simp only [hv]
      rw [List.mem_map]
      have taken := fun y => mem_take (ranksBefore v.first v.dir)
        (fun _ _ => ranksBefore_asymm) _ (slotCount x.kind) y (qualified_sorted e r v x.mask)
      constructor
      · rintro ⟨y, hy, rfl⟩
        obtain ⟨hm, hc⟩ := (taken y).mp hy
        obtain ⟨hp, hq⟩ := mem_qualified.mp hm
        rw [qualified_above] at hc
        exact ⟨x, v, y.2, rfl, hv, by rw [named_handleAt]; exact hp, hq, hc⟩
      · rintro ⟨x', v', p, hx, hv', hp, hq, hc⟩
        cases hx
        rw [hv] at hv'
        cases hv'
        refine ⟨(h.slot, p), (taken _).mpr ⟨mem_qualified.mpr ⟨(named_iff.mp hp).2, hq⟩, ?_⟩,
          handleAt_of_named hp⟩
        rw [qualified_above]
        exact hc

/-- The wanted set stands best first. -/
theorem wanted_sorted (e : Env) (r : Road) (u : UnitId) :
    (r.wanted e u).Pairwise (RanksOver e r u) := by
  unfold Road.wanted
  cases hu : e.plan.unit u with
  | none => exact List.Pairwise.nil
  | some x =>
    cases hv : x.view? with
    | none => simp [hv]
    | some v =>
      simp only [hv]
      rw [List.pairwise_map]
      refine ((qualified_sorted e r v x.mask).sublist (List.take_sublist _ _)).imp_of_mem
        fun {a b} ha hb hab x' v' p q hx hv' hp hq => ?_
      rw [hu] at hx
      cases hx
      rw [hv] at hv'
      cases hv'
      rw [named_handleAt, (mem_qualified.mp (List.mem_of_mem_take ha)).1] at hp
      rw [named_handleAt, (mem_qualified.mp (List.mem_of_mem_take hb)).1] at hq
      cases hp
      cases hq
      exact hab

/-! ### The next item of a unit (R81, R82) -/

theorem updatable_iff {c : CopySlot} {hs : List Handle} :
    (CopySlot.updatable c && c.namesOneOf hs) = true ↔
      ∃ h v, (c = .behind h v ∨ c = .overruled h v) ∧ h ∈ hs := by
  cases c <;> simp [CopySlot.updatable, CopySlot.namesOneOf, CopySlot.handle?]

theorem unwanted_iff {c : CopySlot} {hs : List Handle} :
    (CopySlot.replaceable c && !c.namesOneOf hs) = true ↔
      ∃ h v, (c = .current h v ∨ c = .behind h v ∨ c = .overruled h v) ∧ h ∉ hs := by
  cases c <;> simp [CopySlot.replaceable, CopySlot.namesOneOf, CopySlot.handle?]

theorem updateDue_iff {e : Env} {r : Road} {u : UnitId} {n : Nat} :
    (∃ c, (r.dirOf u)[n]? = some c ∧ (CopySlot.updatable c && c.namesOneOf (r.wanted e u)) = true) ↔
      ∃ h, UpdateDue e r u n h := by
  constructor
  · rintro ⟨c, hc, ht⟩
    obtain ⟨h, v, hv, hm⟩ := updatable_iff.mp ht
    exact ⟨h, mem_wanted.mp hm, v, by simpa [hc] using hv⟩
  · rintro ⟨h, hw, v, hv⟩
    rcases hv with hv | hv
    · exact ⟨_, hv, updatable_iff.mpr ⟨h, v, .inl rfl, mem_wanted.mpr hw⟩⟩
    · exact ⟨_, hv, updatable_iff.mpr ⟨h, v, .inr rfl, mem_wanted.mpr hw⟩⟩

theorem unwantedAt_iff {e : Env} {r : Road} {u : UnitId} {n : Nat} {h : Handle} :
    (∃ c, (r.dirOf u)[n]? = some c ∧ c.handle? = some h ∧
      (CopySlot.replaceable c && !c.namesOneOf (r.wanted e u)) = true) ↔ Unwanted e r u n h := by
  constructor
  · rintro ⟨c, hc, hh, ht⟩
    obtain ⟨h', v, hv, hm⟩ := unwanted_iff.mp ht
    have : h' = h := by rcases hv with rfl | rfl | rfl <;> exact Option.some.inj hh
    subst this
    exact ⟨fun hw => hm (mem_wanted.mpr hw), v,
      by simpa [hc] using hv⟩
  · rintro ⟨hw, v, hv⟩
    have hm : h ∉ r.wanted e u := fun hm => hw (mem_wanted.mp hm)
    rcases hv with hv | hv | hv
    · exact ⟨_, hv, rfl, unwanted_iff.mpr ⟨h, v, .inl rfl, hm⟩⟩
    · exact ⟨_, hv, rfl, unwanted_iff.mpr ⟨h, v, .inr (.inl rfl), hm⟩⟩
    · exact ⟨_, hv, rfl, unwanted_iff.mpr ⟨h, v, .inr (.inr rfl), hm⟩⟩

theorem isOverruled_getD (l : List CopySlot) (n : Nat) :
    (l.getD n .unknown).isOverruled = l[n]?.any CopySlot.isOverruled := by
  rw [List.getD_eq_getElem?_getD]
  cases l[n]? <;> rfl

theorem loadInto_iff {r : Road} {u : UnitId} {n : Nat} {h : Handle} {x : Transfer} :
    r.loadInto u n h = some x ↔ Loads r u n h x := by
  unfold Road.loadInto Road.image Loads Road.into
  rw [Option.map_map, Option.map_eq_some_iff]
  simp only [Function.comp_apply, isOverruled_getD]
  exact ⟨fun ⟨p, hp, hx⟩ => ⟨p, hp, hx.symm⟩, fun ⟨p, hp, hx⟩ => ⟨p, hp, hx.symm⟩⟩

theorem loads_of_wanted {e : Env} {r : Road} {u v : UnitId} {n : Nat} {h : Handle}
    (hw : Wants e r v h) : r.loadInto u n h ≠ none := by
  obtain ⟨_, _, p, _, _, hp, _⟩ := hw
  unfold Road.loadInto Road.image
  simp [hp]

theorem update_some {e : Env} {r : Road} {u : UnitId} {x : Transfer}
    (hx : r.update u (r.wanted e u) = some x) :
    ∃ n h, UpdateDue e r u n h ∧ (∀ m h', UpdateDue e r u m h' → n ≤ m) ∧ Loads r u n h x := by
  unfold Road.update at hx
  split at hx
  · rename_i n hn
    obtain ⟨⟨c, hc, ht⟩, hl⟩ := head_indexes hn
    obtain ⟨h, v, hv, hm⟩ := updatable_iff.mp ht
    have hh : (r.dirOf u).getD n .unknown = c := by
      rw [List.getD_eq_getElem?_getD, hc]
      rfl
    rw [hh, show c.handle? = some h by rcases hv with rfl | rfl <;> rfl] at hx
    exact ⟨n, h, ⟨mem_wanted.mp hm, v, by simpa [hc] using hv⟩,
      fun m h' hd => by
        obtain ⟨c', hc', ht'⟩ := updateDue_iff.mpr ⟨h', hd⟩
        exact hl m c' hc' ht',
      loadInto_iff.mp hx⟩
  · cases hx

theorem update_none {e : Env} {r : Road} {u : UnitId} (hx : r.update u (r.wanted e u) = none) (n : Nat)
    (h : Handle) : ¬ UpdateDue e r u n h := by
  intro hd
  obtain ⟨c, hc, ht⟩ := updateDue_iff.mpr ⟨h, hd⟩
  unfold Road.update at hx
  split at hx
  · rename_i m hm
    obtain ⟨⟨c', hc', ht'⟩, _⟩ := head_indexes hm
    obtain ⟨h', v, hv, hm'⟩ := updatable_iff.mp ht'
    have hh : (r.dirOf u).getD m .unknown = c' := by
      rw [List.getD_eq_getElem?_getD, hc']
      rfl
    rw [hh, show c'.handle? = some h' by rcases hv with rfl | rfl <;> rfl] at hx
    exact loads_of_wanted (mem_wanted.mp hm') hx
  · rename_i hn
    rw [head_indexes_none hn n c hc] at ht
    cases ht

theorem victimClass_iff {e : Env} {r : Road} {u : UnitId} {h : Handle} {k : Nat} :
    VictimClass e r u h k ↔ r.victimClass e u h = k ∧ k ≠ 5 := by
  have hq : ∀ p : Posting, QualifiesFor e u p ↔ p.state = .active ∧
      (viewMeets e u p && (e.plan.unit u).any (fun pu => inMask pu.mask p.kind)) = true := by
    intro p
    unfold QualifiesFor viewMeets
    cases hu : e.plan.unit u with
    | none => simp
    | some x =>
      cases hv : x.view? with
      | none => simp [hv]
      | some v =>
        simp only [Option.some.injEq, exists_and_left, exists_eq_left', hv, Option.bind_some,
          Option.any_some, ← qualifies_eq]
        simp [Bool.and_assoc]
  unfold VictimClass Road.victimClass
  cases hp : r.named h with
  | none =>
    simp
    omega
  | some p =>
    simp only [reduceCtorEq, and_false, Option.some.injEq, exists_eq_left', false_or, hq]
    cases hs : p.state with
    | retiring => simp; omega
    | pending => simp; omega
    | active =>
      simp only [reduceCtorEq, and_false, true_and, false_or]
      cases (viewMeets e u p && (e.plan.unit u).any (fun pu => inMask pu.mask p.kind)) <;> simp <;>
        omega

/-- A slot that a placement may take, with its victim class. -/
def Candidate (e : Env) (r : Road) (u : UnitId) (k n : Nat) : Prop :=
  ∃ h, Unwanted e r u n h ∧ VictimClass e r u h k

/-- The first slot of a victim class, as the model looks for it. -/
def firstOf (e : Env) (r : Road) (u : UnitId) (k : Nat) : Option Nat :=
  (indexes (fun c => CopySlot.replaceable c && !c.namesOneOf (r.wanted e u) &&
    c.handle?.any (fun h => r.victimClass e u h == k)) (r.dirOf u)).head?

theorem candidate_iff {e : Env} {r : Road} {u : UnitId} {k n : Nat} (hk : k ≠ 5) :
    (∃ c, (r.dirOf u)[n]? = some c ∧ (CopySlot.replaceable c && !c.namesOneOf (r.wanted e u) &&
      c.handle?.any (fun h => r.victimClass e u h == k)) = true) ↔ Candidate e r u k n := by
  constructor
  · rintro ⟨c, hc, ht⟩
    obtain ⟨ht, hv⟩ := (Bool.and_eq_true _ _).mp ht
    obtain ⟨h, hh, hv⟩ := (Option.any_eq_true _ _).mp hv
    exact ⟨h, unwantedAt_iff.mp ⟨c, hc, hh, ht⟩, victimClass_iff.mpr ⟨eq_of_beq hv, hk⟩⟩
  · rintro ⟨h, hu, hv⟩
    obtain ⟨c, hc, hh, ht⟩ := unwantedAt_iff.mpr hu
    refine ⟨c, hc, ?_⟩
    rw [ht, hh]
    simp [(victimClass_iff.mp hv).1]

theorem firstOf_some {e : Env} {r : Road} {u : UnitId} {k n : Nat} (hk : k ≠ 5)
    (h : firstOf e r u k = some n) :
    Candidate e r u k n ∧ ∀ m, Candidate e r u k m → n ≤ m := by
  obtain ⟨h1, h2⟩ := head_indexes h
  refine ⟨(candidate_iff hk).mp h1, fun m hm => ?_⟩
  obtain ⟨c, hc, ht⟩ := (candidate_iff hk).mpr hm
  exact h2 m c hc ht

theorem firstOf_none {e : Env} {r : Road} {u : UnitId} {k : Nat} (hk : k ≠ 5)
    (h : firstOf e r u k = none) (n : Nat) : ¬ Candidate e r u k n := fun hm => by
  obtain ⟨c, hc, ht⟩ := (candidate_iff hk).mpr hm
  rw [head_indexes_none h n c hc] at ht
  cases ht

/-- The slot of the lowest-ranked posting of class 4, as the model looks for it. -/
def lowestRanked (e : Env) (r : Road) (u : UnitId) : Option Nat :=
  match e.plan.unit u with
  | some pu =>
    match pu.view? with
    | some v =>
      ((r.qualified e.roadLen v pu.mask).reverse.filterMap fun x =>
        (indexes (fun c => CopySlot.replaceable c && !c.namesOneOf (r.wanted e u) &&
          c.handle? == some (r.handleAt x.1)) (r.dirOf u)).head?).head?
    | none => none
  | none => none

theorem named_at {e : Env} {r : Road} {u : UnitId} {h : Handle} {n : Nat} :
    (∃ c, (r.dirOf u)[n]? = some c ∧ (CopySlot.replaceable c && !c.namesOneOf (r.wanted e u) &&
      c.handle? == some h) = true) ↔ Unwanted e r u n h := by
  rw [← unwantedAt_iff]
  constructor
  · rintro ⟨c, hc, ht⟩
    obtain ⟨ht, hh⟩ := (Bool.and_eq_true _ _).mp ht
    exact ⟨c, hc, eq_of_beq hh, ht⟩
  · rintro ⟨c, hc, hh, ht⟩
    exact ⟨c, hc, by rw [ht, hh]; simp⟩

theorem qualified_of_class {e : Env} {r : Road} {u : UnitId} {h : Handle} {x : PlanUnit} {v : View}
    (hx : e.plan.unit u = some x) (hv : x.view? = some v) :
    VictimClass e r u h 4 ↔ ∃ p, r.named h = some p ∧
      (h.slot, p) ∈ r.qualified e.roadLen v x.mask := by
  unfold VictimClass QualifiesFor
  constructor
  · rintro (⟨hk, _⟩ | ⟨p, hp, ⟨hk, _⟩ | ⟨hk, _⟩ | ⟨_, x', v', hx', hv', hq⟩⟩)
    · cases hk
    · cases hk
    · cases hk
    · rw [hx] at hx'
      cases hx'
      rw [hv] at hv'
      cases hv'
      exact ⟨p, hp, mem_qualified.mpr ⟨(named_iff.mp hp).2, hq⟩⟩
  · rintro ⟨p, hp, hm⟩
    exact .inr ⟨p, hp, .inr (.inr ⟨rfl, x, v, hx, hv, (mem_qualified.mp hm).2⟩)⟩

theorem lowestRanked_some {e : Env} {r : Road} {u : UnitId} {n : Nat} (h : lowestRanked e r u = some n) :
    ∃ g, Unwanted e r u n g ∧ VictimClass e r u g 4 ∧
      ∀ m g', Unwanted e r u m g' → VictimClass e r u g' 4 →
        (g' = g → n ≤ m) ∧ (g' ≠ g → RanksOver e r u g' g) := by
  unfold lowestRanked at h
  split at h
  · rename_i x hx
    split at h
    · rename_i v hv
      rw [List.head?_filterMap] at h
      obtain ⟨as, y, bs, hl, hy, has⟩ := List.findSome?_eq_some_iff.mp h
      obtain ⟨h1, h2⟩ := head_indexes hy
      have hmem : ∀ z, z ∈ r.qualified e.roadLen v x.mask ↔ z ∈ as ++ y :: bs := fun z => by
        rw [← hl, List.mem_reverse]
      have hq := mem_qualified.mp ((hmem y).mpr (by simp))
      refine ⟨r.handleAt y.1, named_at.mp h1, (qualified_of_class hx hv).mpr
        ⟨y.2, by rw [named_handleAt]; exact hq.1, (hmem y).mpr (by simp)⟩, fun m g' hu hc => ?_⟩
      constructor
      · rintro rfl
        obtain ⟨c, hc', ht⟩ := named_at.mpr hu
        exact h2 m c hc' ht
      · intro hne
        obtain ⟨p, hp, hm⟩ := (qualified_of_class hx hv).mp hc
        have hg := handleAt_of_named hp
        rcases List.mem_append.mp ((hmem _).mp hm) with hm | hm
        · obtain ⟨c, hc', ht⟩ := named_at.mpr hu
          have := head_indexes_none (has _ hm) m c hc'
          rw [show r.handleAt (g'.slot, p).1 = g' from hg] at this
          rw [this] at ht
          cases ht
        · rcases List.mem_cons.mp hm with hm | hm
          · refine absurd ?_ hne
            rw [← hg, ← hm]
          · intro x' v' p' q hx' hv' hp' hq'
            rw [hx] at hx'
            cases hx'
            rw [hv] at hv'
            cases hv'
            rw [hp] at hp'
            cases hp'
            rw [named_handleAt, hq.1] at hq'
            cases hq'
            have sorted := List.pairwise_reverse.mpr (qualified_sorted e r v x.mask)
            rw [hl] at sorted
            exact (List.pairwise_cons.mp (List.pairwise_append.mp sorted).2.1).1 _ hm
    · cases h
  · cases h

theorem lowestRanked_none {e : Env} {r : Road} {u : UnitId} (h : lowestRanked e r u = none) (n : Nat) :
    ¬ Candidate e r u 4 n := by
  rintro ⟨g, hu, hc⟩
  have hc' := hc
  rcases hc with ⟨hk, _⟩ | ⟨p, hp, ⟨hk, _⟩ | ⟨hk, _⟩ | ⟨_, x, v, hx, hv, _⟩⟩
  · cases hk
  · cases hk
  · cases hk
  · unfold lowestRanked at h
    simp only [hx, hv, List.head?_filterMap, List.findSome?_eq_none_iff, List.mem_reverse] at h
    obtain ⟨p, hp, hm⟩ := (qualified_of_class hx hv).mp hc'
    obtain ⟨c, hcn, ht⟩ := named_at.mpr hu
    have := head_indexes_none (h _ hm) n c hcn
    rw [show r.handleAt (g.slot, p).1 = g from handleAt_of_named hp] at this
    rw [this] at ht
    cases ht

theorem victim_eq (e : Env) (r : Road) (u : UnitId) : r.victim e u (r.wanted e u) =
    ((firstOf e r u 1).orElse fun _ => firstOf e r u 2).orElse fun _ =>
      (firstOf e r u 3).orElse fun _ => lowestRanked e r u := rfl

theorem class_range {e : Env} {r : Road} {u : UnitId} {h : Handle} {k : Nat}
    (hv : VictimClass e r u h k) : k = 1 ∨ k = 2 ∨ k = 3 ∨ k = 4 := by
  rcases hv with ⟨hk, _⟩ | ⟨p, _, ⟨hk, _⟩ | ⟨hk, _⟩ | ⟨hk, _⟩⟩ <;> simp [hk]

/-- A slot of the first class that has one, the lowest of it, is the victim. -/
theorem isVictim_first {e : Env} {r : Road} {u : UnitId} {k n : Nat} (hk : k ≠ 4) (hk' : k ≠ 5)
    (h : firstOf e r u k = some n)
    (none : ∀ j, j < k → ∀ m, ¬ Candidate e r u j m) : IsVictim e r u n := by
  obtain ⟨⟨g, hu, hc⟩, hl⟩ := firstOf_some hk' h
  refine ⟨k, g, hu, hc, fun j m g' hu' hc' => ⟨?_, fun hj => ?_⟩⟩
  · by_contra hlt
    exact none j (by omega) m ⟨g', hu', hc'⟩
  · subst hj
    exact ⟨fun _ => hl m ⟨g', hu', hc'⟩, fun h4 => absurd h4 hk⟩

/-- The model's victim is the one R82 gives. -/
theorem victim_spec (e : Env) (r : Road) (u : UnitId) :
    match r.victim e u (r.wanted e u) with
    | some n => IsVictim e r u n
    | none => ∀ n, ¬ IsVictim e r u n := by
  rw [victim_eq]
  have below : ∀ {k : Nat}, (∀ i, 1 ≤ i → i < k → ∀ m, ¬ Candidate e r u i m) →
      ∀ j, j < k → ∀ m, ¬ Candidate e r u j m := by
    intro k hn j hj m hc
    obtain ⟨g, hu, hv⟩ := hc
    have := class_range hv
    exact hn j (by omega) hj m ⟨g, hu, hv⟩
  cases h1 : firstOf e r u 1 with
  | some n =>
    exact isVictim_first (by decide) (by decide) h1 (below fun i hi hik => by omega)
  | none =>
    have n1 := firstOf_none (by decide) h1
    cases h2 : firstOf e r u 2 with
    | some n =>
      refine isVictim_first (by decide) (by decide) h2 (below fun i hi hik => ?_)
      rw [show i = 1 by omega]
      exact n1
    | none =>
      have n2 := firstOf_none (by decide) h2
      cases h3 : firstOf e r u 3 with
      | some n =>
        refine isVictim_first (by decide) (by decide) h3 (below fun i hi hik => ?_)
        rcases (by omega : i = 1 ∨ i = 2) with rfl | rfl
        · exact n1
        · exact n2
      | none =>
        have n3 := firstOf_none (by decide) h3
        have early : ∀ j, j < 4 → ∀ m, ¬ Candidate e r u j m := below (k := 4) fun i hi hik => by
          rcases (by omega : i = 1 ∨ i = 2 ∨ i = 3) with rfl | rfl | rfl
          · exact n1
          · exact n2
          · exact n3
        cases h4 : lowestRanked e r u with
        | some n =>
          obtain ⟨g, hu, hc, hl⟩ := lowestRanked_some h4
          refine ⟨4, g, hu, hc, fun j m g' hu' hc' => ⟨?_, fun hj => ?_⟩⟩
          · by_contra hlt
            exact early j (by omega) m ⟨g', hu', hc'⟩
          · subst hj
            exact ⟨fun h => h.elim (fun h => absurd rfl h) (hl m g' hu' hc').1,
              fun _ => (hl m g' hu' hc').2⟩
        | none =>
          rintro n ⟨k, g, hu, hc, _⟩
          rcases class_range hc with rfl | rfl | rfl | rfl
          · exact n1 n ⟨g, hu, hc⟩
          · exact n2 n ⟨g, hu, hc⟩
          · exact n3 n ⟨g, hu, hc⟩
          · exact lowestRanked_none h4 n ⟨g, hu, hc⟩

/-- The target of a placement, as the model looks for it. -/
def target (e : Env) (r : Road) (u : UnitId) : Option Nat :=
  ((indexes (· == .empty) (r.dirOf u)).head?).orElse fun _ => r.victim e u (r.wanted e u)

theorem target_spec (e : Env) (r : Road) (u : UnitId) :
    match target e r u with
    | some n => IsTarget e r u n
    | none => ∀ n, ¬ IsTarget e r u n := by
  unfold target
  cases h : (indexes (· == CopySlot.empty) (r.dirOf u)).head? with
  | some n =>
    obtain ⟨⟨c, hc, ht⟩, hl⟩ := head_indexes h
    rw [eq_of_beq ht] at hc
    exact .inl ⟨hc, fun m hm hc' => absurd (hl m _ hc' rfl) (by omega)⟩
  | none =>
    have full : ∀ m : Nat, (r.dirOf u)[m]? ≠ some .empty := fun m hm => by
      have := head_indexes_none h m _ hm
      cases this
    have hv := victim_spec e r u
    show match r.victim e u (r.wanted e u) with
      | some n => IsTarget e r u n
      | none => ∀ n, ¬ IsTarget e r u n
    cases hvv : r.victim e u (r.wanted e u) with
    | some n =>
      rw [hvv] at hv
      exact .inr ⟨full, hv⟩
    | none =>
      rw [hvv] at hv
      rintro n (⟨hn, _⟩ | ⟨_, hn⟩)
      · exact full n hn
      · exact hv n hn

theorem placement_eq (e : Env) (r : Road) (u : UnitId) : r.placement e u (r.wanted e u) =
    match (r.wanted e u).find? fun h => !(r.dirOf u).any fun c => c.handle? == some h with
    | some h =>
      match target e r u with
      | some n => r.loadInto u n h
      | none => none
    | none => none := rfl

theorem missing_iff {e : Env} {r : Road} {u : UnitId} {h : Handle} :
    Missing e r u h ↔ h ∈ r.wanted e u ∧
      (!(r.dirOf u).any fun c => c.handle? == some h) = true := by
  unfold Missing
  rw [mem_wanted]
  simp

theorem placement_some {e : Env} {r : Road} {u : UnitId} {x : Transfer}
    (hx : r.placement e u (r.wanted e u) = some x) :
    ∃ n h, ToPlace e r u h ∧ IsTarget e r u n ∧ Loads r u n h x := by
  rw [placement_eq] at hx
  split at hx
  · rename_i h hf
    have ht := target_spec e r u
    split at hx
    · rename_i n hn
      rw [hn] at ht
      obtain ⟨hp, as, bs, hl, has⟩ := List.find?_eq_some_iff_append.mp hf
      have sorted := wanted_sorted e r u
      refine ⟨n, h, ⟨missing_iff.mpr ⟨by rw [hl]; simp, hp⟩, fun h' hm hne => ?_⟩, ht,
        loadInto_iff.mp hx⟩
      obtain ⟨hm, hp'⟩ := missing_iff.mp hm
      rw [hl] at hm sorted
      rcases List.mem_append.mp hm with hm | hm
      · have := has h' hm
        rw [hp'] at this
        cases this
      · rcases List.mem_cons.mp hm with hm | hm
        · exact absurd hm hne
        · exact (List.pairwise_cons.mp (List.pairwise_append.mp sorted).2.1).1 h' hm
    · cases hx
  · cases hx

theorem placement_none {e : Env} {r : Road} {u : UnitId}
    (hx : r.placement e u (r.wanted e u) = none) (n : Nat) (h : Handle) (hp : ToPlace e r u h) :
    ¬ IsTarget e r u n := by
  obtain ⟨hm, hh⟩ := missing_iff.mp hp.1
  rw [placement_eq] at hx
  split at hx
  · rename_i h' hf
    have ht := target_spec e r u
    split at hx
    · have hw := mem_wanted.mp (List.mem_of_find?_eq_some hf)
      exact absurd hx (loads_of_wanted hw)
    · rename_i hn
      rw [hn] at ht
      exact ht n
  · rename_i hf
    exact absurd hh (by simpa using List.find?_eq_none.mp hf h hm)

theorem clearing_some {e : Env} {r : Road} {u : UnitId} {x : Transfer}
    (hx : r.clearing u (r.wanted e u) = some x) :
    ∃ n h, Unwanted e r u n h ∧ (∀ m h', Unwanted e r u m h' → n ≤ m) ∧
      x = r.into u n .clear .clear := by
  unfold Road.clearing at hx
  obtain ⟨n, hn, hx⟩ := Option.map_eq_some_iff.mp hx
  obtain ⟨⟨c, hc, ht⟩, hl⟩ := head_indexes hn
  obtain ⟨h, v, hv, hm⟩ := unwanted_iff.mp ht
  refine ⟨n, h, unwantedAt_iff.mp ⟨c, hc, by rcases hv with rfl | rfl | rfl <;> rfl, ht⟩,
    fun m h' hu => ?_, ?_⟩
  · obtain ⟨c', hc', _, ht'⟩ := unwantedAt_iff.mpr hu
    exact hl m c' hc' ht'
  · rw [← hx, isOverruled_getD]
    rfl

theorem clearing_none {e : Env} {r : Road} {u : UnitId}
    (hx : r.clearing u (r.wanted e u) = none) (n : Nat) (h : Handle) : ¬ Unwanted e r u n h := by
  intro hu
  unfold Road.clearing at hx
  obtain ⟨c, hc, _, ht⟩ := unwantedAt_iff.mpr hu
  rw [head_indexes_none (Option.map_eq_none_iff.mp hx) n c hc] at ht
  cases ht

/-- The model's next item of a unit is the one R81 gives. -/
theorem nextItem_some {e : Env} {r : Road} {u : UnitId} {x : Transfer}
    (hx : r.nextItem e u = some x) : ItemFor e r u x := by
  unfold Road.nextItem at hx
  dsimp only at hx
  cases h1 : r.update u (r.wanted e u) with
  | some y =>
    rw [h1] at hx
    cases hx
    exact .inl (update_some h1)
  | none =>
    rw [h1] at hx
    refine .inr ⟨update_none h1, ?_⟩
    cases h2 : r.placement e u (r.wanted e u) with
    | some y =>
      rw [h2] at hx
      cases hx
      exact .inl (placement_some h2)
    | none =>
      rw [h2] at hx
      exact .inr ⟨placement_none h2, clearing_some hx⟩

theorem nextItem_none {e : Env} {r : Road} {u : UnitId} (hx : r.nextItem e u = none) :
    NoItem e r u := by
  unfold Road.nextItem at hx
  dsimp only at hx
  cases h1 : r.update u (r.wanted e u) with
  | some y => rw [h1] at hx; cases hx
  | none =>
    rw [h1] at hx
    cases h2 : r.placement e u (r.wanted e u) with
    | some y => rw [h2] at hx; cases hx
    | none =>
      rw [h2] at hx
      exact ⟨update_none h1, placement_none h2, clearing_none hx⟩

/-! ### What the head entry offers a line (R51, R78, R80) -/

theorem fetchable_of {r : Road} {en : Entry} {w : HeadWork} {it : FetchItem}
    (h : r.passedOver en w it = false) : Fetchable r en w it := by
  have named : ∀ f : CopySlot → Bool, f ((r.dirOf it.unit).getD it.slot .unknown) = true →
      f .unknown = false → ∃ c, (r.dirOf it.unit)[it.slot]? = some c ∧ f c = true := by
    intro f hf hu
    rw [List.getD_eq_getElem?_getD] at hf
    cases hc : (r.dirOf it.unit)[it.slot]? with
    | none => rw [hc] at hf; rw [Option.getD_none, hu] at hf; cases hf
    | some c => rw [hc] at hf; exact ⟨c, rfl, hf⟩
  unfold Road.passedOver at h
  rw [Bool.or_eq_false_iff, Bool.or_eq_false_iff] at h
  obtain ⟨⟨ho, he⟩, hc⟩ := h
  refine ⟨by simpa using ho, by simpa using he, ?_⟩
  split at hc
  · rename_i g
    obtain ⟨c, hd, ht⟩ := named (CopySlot.amendedFor g) (by simpa using hc) rfl
    cases c <;> simp [CopySlot.amendedFor, CopySlot.isAmended, CopySlot.handle?] at ht
    subst ht
    exact ⟨_, _, hd, fun _ h => (by cases h; rfl)⟩
  · rename_i hne
    obtain ⟨c, hd, ht⟩ := named CopySlot.isAmended (by simpa using hc) rfl
    cases c <;> simp [CopySlot.isAmended] at ht
    exact ⟨_, _, hd, fun g hg => absurd hg (hne g)⟩

/-- A look that has moved nothing takes from the first item, or waits for its unit. -/
theorem offerFetch_spec {e : Env} {en : Entry} {w : HeadWork} :
    ∀ (its : List FetchItem) (r : Road),
      (∀ x, r.offerFetch e en w its false = .take x → ∃ it rest h v, its = it :: rest ∧
        Fetchable r en w it ∧ r.awaits it.unit = false ∧
        (r.dirOf it.unit)[it.slot]? = some (.amended h v) ∧
        x = { addr := it.unit.addr, kind := .fetch h, slot := it.slot, overrule := false,
              step := .fetch, tries := 0 }) ∧
      (r.offerFetch e en w its false = .wait → ∀ it rest, its = it :: rest →
        Fetchable r en w it ∧ r.awaits it.unit = true)
  | [], r => by simp [Road.offerFetch]
  | it :: rest, r => by
    have moved : ∀ (its : List FetchItem) (r : Road),
        ∃ r', r.offerFetch e en w its true = .changed r' ∨ r.offerFetch e en w its true = .wait ∧
          ∃ it ∈ its, ∃ r0 : Road, r0.passedOver en w it = false ∧ r0.fetchOf it = none := by
      intro its
      induction its with
      | nil => exact fun r => ⟨r.pump e, .inl rfl⟩
      | cons a as ih =>
        intro r
        unfold Road.offerFetch
        split
        · obtain ⟨r', h⟩ := ih (r.endFetch fun x => x.unit == a.unit && x.slot == a.slot)
          exact ⟨r', h.imp_right fun h => ⟨h.1, h.2.imp fun _ h => ⟨List.mem_cons_of_mem a h.1, h.2⟩⟩⟩
        · rename_i hp
          split
          · exact ⟨r, .inl rfl⟩
          · split
            · exact ⟨r, .inl rfl⟩
            · rename_i hf
              exact ⟨r, .inr ⟨rfl, a, List.mem_cons_self, r, by simpa using hp, hf⟩⟩
    have fetches : ∀ (it : FetchItem) (r0 : Road), r0.passedOver en w it = false →
        r0.fetchOf it ≠ none := by
      intro it r0 hp hf
      obtain ⟨_, _, h, v, hc, _⟩ := fetchable_of hp
      unfold Road.fetchOf at hf
      rw [List.getD_eq_getElem?_getD, hc] at hf
      cases hf
    have goesOn : ∀ (its : List FetchItem) (r : Road),
        ∃ r', r.offerFetch e en w its true = .changed r' := by
      intro its r
      obtain ⟨r', h | ⟨_, a, _, r0, hp, hf⟩⟩ := moved its r
      · exact ⟨r', h⟩
      · exact absurd hf (fetches a r0 hp)
    unfold Road.offerFetch
    split
    · obtain ⟨r', h⟩ := goesOn rest (r.endFetch fun x => x.unit == it.unit && x.slot == it.slot)
      rw [h]
      exact ⟨fun _ h => (by cases h), fun h => (by cases h)⟩
    · rename_i hp
      have hfe := fetchable_of (by simpa using hp : r.passedOver en w it = false)
      split
      · rename_i ha
        refine ⟨fun _ h => (by cases h), fun _ a as h => ?_⟩
        cases h
        exact ⟨hfe, ha⟩
      · rename_i ha
        obtain ⟨ho, he, h, v, hc, hn⟩ := hfe
        have hf : r.fetchOf it = some { addr := it.unit.addr, kind := .fetch h, slot := it.slot,
                                        overrule := false, step := .fetch, tries := 0 } := by
          unfold Road.fetchOf
          rw [List.getD_eq_getElem?_getD, hc]
          rfl
        rw [hf]
        refine ⟨fun x hx => ?_, fun h => (by cases h)⟩
        cases hx
        exact ⟨it, rest, h, v, rfl, ⟨ho, he, h, v, hc, hn⟩, by simpa using ha, hc, rfl⟩

theorem offerReconcile_spec {e : Env} :
    ∀ (us : List UnitId) (r : Road),
      (∀ x, Road.offerReconcile e us r false = .take x → ∃ u rest, us = u :: rest ∧
        r.online u = true ∧ r.awaits u = false ∧ ItemFor e r u x) ∧
      (Road.offerReconcile e us r false = .wait → ∀ u rest, us = u :: rest →
        r.online u = true ∧ r.awaits u = true)
  | [], r => by simp [Road.offerReconcile]
  | u :: rest, r => by
    have goesOn : ∀ (us : List UnitId) (r : Road),
        ∃ r', Road.offerReconcile e us r true = .changed r' := by
      intro us
      induction us with
      | nil => exact fun r => ⟨r.pump e, rfl⟩
      | cons a as ih =>
        intro r
        unfold Road.offerReconcile
        split
        · exact ih (r.endPart a)
        · split
          · exact ⟨r, rfl⟩
          · split
            · exact ⟨r, rfl⟩
            · exact ih (r.endPart a)
    obtain ⟨r', h⟩ := goesOn rest (r.endPart u)
    unfold Road.offerReconcile
    split
    · rw [h]
      exact ⟨fun _ h => (by cases h), fun h => (by cases h)⟩
    · rename_i ho
      have ho : r.online u = true := by simpa using ho
      split
      · rename_i ha
        refine ⟨fun _ h => (by cases h), fun _ a as h => ?_⟩
        cases h
        exact ⟨ho, ha⟩
      · rename_i ha
        split
        · rename_i x hx
          refine ⟨fun y hy => ?_, fun h => (by cases h)⟩
          cases hy
          exact ⟨u, rest, rfl, ho, by simpa using ha, nextItem_some hx⟩
        · rw [h]
          exact ⟨fun _ h => (by cases h), fun h => (by cases h)⟩

/-- What the head entry offers a line, in terms of table, directory, queue and plan. -/
theorem offer_spec (e : Env) (r : Road) (l : Fin 4) :
    (∀ x, r.offer e l = .take x → HeadGives e r l x) ∧ (r.offer e l = .wait → HeadWaits r l) := by
  unfold Road.offer
  split
  · rename_i en q w hq hw
    split
    · rename_i hp
      obtain ⟨h1, h2⟩ := offerFetch_spec (e := e) (en := en) (w := w) (w.itemsLeft l) r
      refine ⟨fun x hx => ?_, fun hx en' q' w' hq' hw' => ?_⟩
      · obtain ⟨it, rest, h, v, hi, hf, ha, hc, he⟩ := h1 x hx
        exact ⟨en, q, w, hq, hw, .inl ⟨hp, it, rest, h, v, hi, hf, ha, hc, he⟩⟩
      · rw [hq] at hq'
        rw [hw] at hw'
        cases hq'
        cases hw'
        exact ⟨fun _ => h2 hx, fun h => (by rw [hp] at h; cases h)⟩
    · rename_i hp
      obtain ⟨h1, h2⟩ := offerReconcile_spec (e := e) (w.unitsLeft l) r
      refine ⟨fun x hx => ?_, fun hx en' q' w' hq' hw' => ?_⟩
      · obtain ⟨u, rest, hi, ho, ha, hit⟩ := h1 x hx
        exact ⟨en, q, w, hq, hw, .inr ⟨hp, u, rest, hi, ho, ha, hit⟩⟩
      · rw [hq] at hq'
        rw [hw] at hw'
        cases hq'
        cases hw'
        exact ⟨fun h => (by rw [hp] at h; cases h), fun _ => h2 hx⟩
  · rename_i hno
    refine ⟨fun x h => (by cases h), fun _ en q w hq hw => absurd hw (hno en q w hq)⟩

end Items

end Sys2Proof.Machine
end

