-- ==== Sys2Proof/Laws/Moves.lean ====
section
/-! SUPPORT. What an event can do to the road blocks, said once: every shared operation is a run of the
primitive moves below, each with what is true when it is made, so that a law which each move keeps is
kept by every operation. Only counted pulses, stuck inputs and CONFIRM_CLEAR change an occupancy, and
only RELEASE_SECTION orders a section open; these are told apart where they are used. -/

namespace Sys2Proof.Machine

/-- The handles that the copy slots of a unit name. -/
abbrev handlesOf (l : List CopySlot) : List Handle := l.filterMap CopySlot.handle?

/-- A slot rewritten in place, its generation kept. -/
def Road.rewritten (r : Road) (i : Fin 256) (q : Posting) (v : Byte) (fl : Nat)
    (d : Vector (List CopySlot) 48) : Road :=
  { r.setSlot i { gen := (r.slot i).gen, version := v, posting := some q } with
    freeLines := fl, dir := d }

/-- What is true when a posting `p` is rewritten as `q`. -/
structure Rewrite (e : Env) (r : Road) (i : Fin 256) (p q : Posting) (v : Byte) (fl : Nat)
    (d : Vector (List CopySlot) 48) : Prop where
  was       : (r.slot i).posting = some p
  lines     : fl + q.text.length = r.freeLines + p.text.length
  authority : q.authority = p.authority
  path      : q.path = p.path
  danger    : q.kind = .danger ↔ p.kind = .danger
  own       : r.LinkLaw → p.authority ≠ .station → q.kind = p.kind ∧ q.expiry = p.expiry
  revive    : r.LinkLaw → q.state ≠ .retiring → p.state = .retiring → p.authority ≠ .station
  fieldPin  : r.LinkLaw → p.authority = .field → q.pin = none
  stays     : p.state = .active → q.state = .active ∨
    q.state = .retiring ∧ ∀ t, p.pin = some t → t ≤ e.now ∨ (r.LinkLaw → p.authority = .field)
  pinLater  : p.state = .active → q.state = .active → ∀ t, p.pin = some t →
    ∃ t', q.pin = some t' ∧ t ≤ t'
  marked    : (d = r.dir ∧ (p.state = .active → q.state = .active ∧ v = (r.slot i).version)) ∨
    ∃ o, d = (r.markCopies (r.handleAt i) o).dir

/-- What a gate record keeps while its gate moves: section, unit, travel limit, standing order, FIELD
link. -/
def GateRec.kept (z : GateRec) : Fin 8 × (UnitId × Nat) × Order × Option Handle :=
  (z.sec, (z.unit, z.travel), z.standing, z.link)

/-- One primitive change of the road blocks, with what is true when it is made. -/
inductive Road.Move (e : Env) : Road → Road → Prop
  /-- Fields that no law speaks of. -/
  | plain (r : Road) (aw : Vector Bool 48) (w : Option HeadWork) (k : Vector Link 48)
      (ln : Vector Line 4) (ins : Vector InputRec 16) (fl : BitVec 14) (n : Nat) :
      Move e r { r with awaiting := aw, work := w, links := k, lines := ln, inputs := ins,
                        flags := fl, fresh := n }
  /-- Directory records: no handle is doubled, and only present copies become CURRENT. -/
  | dir (r : Road) (d : Vector (List CopySlot) 48)
      (hd : ∀ i, (handlesOf (vget r.dir i)).Nodup → (handlesOf (vget d i)).Nodup)
      (hc : ∀ i h v, CopySlot.current h v ∈ vget d i → CopySlot.current h v ∈ vget r.dir i ∨
        r.namedState h = some .active ∧ r.version h = v) : Move e r { r with dir := d }
  | push (r : Road) (en : Entry) (hm : en ≠ .marker) (hc : r.coalesces en = false) :
      Move e r { r with queue := r.queue ++ [en] }
  | pop (r : Road) (en : Entry) (q : List Entry) (h : r.queue = en :: q) (hm : en ≠ .marker) :
      Move e r { r with queue := q, work := none }
  | popMarker (r : Road) (q : List Entry) (h : r.queue = .marker :: q) :
      Move e r { r with queue := q, work := none, settle := none }
  /-- A waiting SETTLE ends, and its marker goes. -/
  | dropMarker (r : Road) :
      Move e r { r with queue := withoutMarker r.queue, settle := none }
  | noMarker (r : Road) (h : Entry.marker ∉ r.queue) : Move e r { r with settle := none }
  /-- Gate and path records, standing orders and links aside. -/
  | records (r : Road) (pd : Vector (Option PathRec) 24) (gd : Vector (Option GateRec) 16)
      (hp : ∀ n, (vget pd n).map PathRec.link = (vget r.paths n).map PathRec.link)
      (hg : ∀ g, (vget gd g).map GateRec.kept = (vget r.gates g).map GateRec.kept) :
      Move e r { r with paths := pd, gates := gd }
  /-- A posting that is not ACTIVE is freed. -/
  | free (r : Road) (i : Fin 256) (p : Posting) (h : (r.slot i).posting = some p)
      (hs : p.state ≠ .active) : Move e r (r.free i)
  /-- A STATION posting takes a FREE slot short of the reserve. -/
  | station (r : Road) (i : Fin 256) (p : Posting) (h : (r.slot i).posting = none)
      (ha : p.authority = .station) (ht : p.text.length ≤ r.freeLines) (hf : r.full = false)
      (hd : p.kind = .danger → r.hasDanger p.path = false) : Move e r (r.occupy i p)
  /-- An AUTO closure takes a FREE slot, and its path links it. -/
  | auto (r : Road) (i : Fin 256) (p : Posting) (n : Fin 24) (x : PathRec)
      (h : (r.slot i).posting = none) (ha : p.authority = .auto)
      (hk : p.kind = .closure ∧ p.expiry = none) (ht : p.text = []) (hp : p.path = some n.val)
      (hx : r.path n = some x) (hl : r.LinkLaw → x.link = none) :
      Move e r (Road.linkPath n ((r.occupy i p).handleAt i) (r.occupy i p))
  /-- A FIELD closure takes a FREE slot, and its gate links it. -/
  | field (r : Road) (i : Fin 256) (p : Posting) (g : Fin 16) (x : GateRec)
      (h : (r.slot i).posting = none) (ha : p.authority = .field)
      (hk : p.kind = .closure ∧ p.expiry = none) (ht : p.text = []) (hp : p.pin = none)
      (hx : r.gate g = some x) (hl : r.LinkLaw → x.link = none) :
      Move e r (Road.linkGate g ((r.occupy i p).handleAt i) (r.occupy i p))
  | rewrite (r : Road) (i : Fin 256) (p q : Posting) (v : Byte) (fl : Nat)
      (d : Vector (List CopySlot) 48) (h : Rewrite e r i p q v fl d) :
      Move e r (r.rewritten i q v fl d)
  /-- A section record changes, but for an order to its gates. -/
  | sec (r : Road) (i : Fin 8) (x : SectionRec) (y : SecState) (hy : r.secState i = some y)
      (ho : x.state.standing = y.standing)
      (hs : y = .sweep → x.state = .sweep ∨ r.occOf i = some (.known 0))
      (hn : x.state = .opening → y = .opening) : Move e r (r.setSec i x)
  /-- A section enters SHUTTING, and its gates are ordered shut. -/
  | shut (r : Road) (i : Fin 8) (y : SecState) (hy : r.secState i = some y) (hs : y ≠ .sweep) :
      Move e r ((sectionGates e i).foldl (Road.setStanding .toClose) (r.enter i .shutting))

/-- A run of primitive moves. -/
def Road.Moves (e : Env) : Road → Road → Prop := Relation.ReflTransGen (Road.Move e)

namespace Moves

variable {e : Env}

theorem refl (r : Road) : Road.Moves e r r := Relation.ReflTransGen.refl
theorem one {r r' : Road} (h : Road.Move e r r') : Road.Moves e r r' := Relation.ReflTransGen.single h
theorem trans {a b c : Road} (h : Road.Moves e a b) (h' : Road.Moves e b c) : Road.Moves e a c :=
  Relation.ReflTransGen.trans h h'

theorem foldl {α : Type} (f : Road → α → Road) (h : ∀ r a, Road.Moves e r (f r a)) :
    ∀ (l : List α) (r : Road), Road.Moves e r (l.foldl f r)
  | [], r => refl r
  | a :: l, r => trans (h r a) (foldl f h l (f r a))

theorem ite {r a b : Road} {c : Prop} [Decidable c] (ha : c → Road.Moves e r a)
    (hb : ¬ c → Road.Moves e r b) : Road.Moves e r (if c then a else b) := by
  by_cases h : c
  · simpa [h] using ha h
  · simpa [h] using hb h

/-! ### Plain writes -/

theorem setAwaits (r : Road) (u : UnitId) (b : Bool) : Road.Moves e r (r.setAwaits u b) :=
  one (.plain r _ r.work r.links r.lines r.inputs r.flags r.fresh)
theorem setLink (r : Road) (u : UnitId) (x : Link) : Road.Moves e r (r.setLink u x) :=
  one (.plain r r.awaiting r.work _ r.lines r.inputs r.flags r.fresh)
theorem setLine (r : Road) (l : Fin 4) (x : Line) : Road.Moves e r (r.setLine l x) :=
  one (.plain r r.awaiting r.work r.links _ r.inputs r.flags r.fresh)
theorem setInput (r : Road) (i : Fin 16) (x : InputRec) : Road.Moves e r (r.setInput i x) :=
  one (.plain r r.awaiting r.work r.links r.lines _ r.flags r.fresh)
theorem raise (r : Road) (f : Flag) : Road.Moves e r (r.raise f) :=
  one (.plain r r.awaiting r.work r.links r.lines r.inputs _ r.fresh)
theorem work (r : Road) (w : Option HeadWork) : Road.Moves e r { r with work := w } :=
  one (.plain r r.awaiting w r.links r.lines r.inputs r.flags r.fresh)
theorem fresh (r : Road) (n : Nat) : Road.Moves e r { r with fresh := n } :=
  one (.plain r r.awaiting r.work r.links r.lines r.inputs r.flags n)
theorem endPart (r : Road) (u : UnitId) : Road.Moves e r (r.endPart u) := work r _
theorem endFetch (r : Road) (f : FetchItem → Bool) : Road.Moves e r (r.endFetch f) := work r _
theorem send (r : Road) (l : Fin 4) (a : Fin 12) (s : Sent) : Road.Moves e r (r.send l a s) :=
  setLine _ _ _

/-- A gate record changes, section, unit, standing order and link aside. -/
theorem setGate (r : Road) (g : Fin 16) (x y : GateRec) (hy : r.gate g = some y)
    (h : x.kept = y.kept) : Road.Moves e r (r.setGate g x) := by
  refine one (.records r r.paths _ (fun _ => rfl) fun g' => ?_)
  rw [vget_vset]
  by_cases hg : g = g'
  · subst hg
    have hy' : vget r.gates g = some y := hy
    simp [hy', h]
  · simp [hg]

/-- A path record changes, its AUTO link aside. -/
theorem setPath (r : Road) (n : Fin 24) (x y : PathRec) (hy : r.path n = some y)
    (h : x.link = y.link) : Road.Moves e r (r.setPath n x) := by
  refine one (.records r _ r.gates (fun n' => ?_) fun _ => rfl)
  rw [vget_vset]
  by_cases hn : n = n'
  · subst hn
    have hy' : vget r.paths n = some y := hy
    simp [hy', h]
  · simp [hn]

/-- One unit's directory records change. -/
theorem setDirOf (r : Road) (u : UnitId) (x : List CopySlot)
    (hd : (handlesOf (r.dirOf u)).Nodup → (handlesOf x).Nodup)
    (hc : ∀ h v, CopySlot.current h v ∈ x → CopySlot.current h v ∈ r.dirOf u ∨
      r.namedState h = some .active ∧ r.version h = v) : Road.Moves e r (r.setDirOf u x) := by
  refine one (.dir r _ (fun i hn => ?_) fun i h v hm => ?_)
  · rw [vget_vset]
    split
    · rename_i hi; subst hi; exact hd hn
    · exact hn
  · rw [vget_vset] at hm
    split at hm
    · rename_i hi; subst hi; exact hc h v hm
    · exact .inl hm

/-! ### Freeing and the queue -/

theorem freeOne (r : Road) (i : Fin 256) (p : Posting) (h : (r.slot i).posting = some p)
    (hs : p.state ≠ .active) : Road.Moves e r (r.free i) := one (.free r i p h hs)

theorem freeTest (r : Road) : Road.Moves e r r.freeTest := by
  refine foldl _ (fun r i => ?_) _ _
  unfold Road.freeIf
  refine ite (fun h => ?_) fun _ => refl r
  unfold Road.freeable at h
  split at h
  · cases h
  · rename_i p hp
    simp only [Bool.and_eq_true, beq_iff_eq] at h
    exact freeOne r i p hp (by rw [h.1.1]; simp)

theorem leave (r : Road) (en : Entry) (q : List Entry) (h : r.queue = en :: q) (hm : en ≠ .marker) :
    Road.Moves e r r.leave := by
  have h1 : Road.Moves e r { r with queue := q, work := none } := one (.pop r en q h hm)
  unfold Road.leave
  rw [h]
  exact trans h1 (freeTest _)

theorem headStep (r r' : Road) (h : headStep e r = some r') : Road.Moves e r r' := by
  unfold Machine.headStep at h
  split at h
  · exact absurd h (by simp)
  · rename_i q hq
    rw [← Option.some.inj h]
    have h1 : Road.Moves e r { r with queue := q, work := none, settle := none } :=
      one (.popMarker r q hq)
    unfold Road.leave
    rw [show ({ r with settle := none } : Road).queue.tail = q from by show r.queue.tail = q; rw [hq]; rfl]
    exact trans h1 (freeTest _)
  · rw [← Option.some.inj h]; exact work r _
  · rename_i u q hq _
    split at h
    · rw [← Option.some.inj h]; exact work r _
    · rw [← Option.some.inj h]; exact leave r _ _ hq (by simp)
  · rename_i en q w hm hq _
    split at h
    · split at h
      · rw [← Option.some.inj h]; exact work r _
      · exact absurd h (by simp)
    · split at h
      · rw [← Option.some.inj h]
        exact leave r en q hq fun he => hm he
      · exact absurd h (by simp)

theorem advance : ∀ (n : Nat) (r : Road), Road.Moves e r (advance e n r)
  | 0, r => refl r
  | n + 1, r => by
    unfold Machine.advance
    split
    · rename_i r' h
      exact trans (headStep r r' h) (advance n r')
    · exact refl r

theorem pump (r : Road) : Road.Moves e r (r.pump e) := advance _ r

theorem append (en : Entry) (hm : en ≠ .marker) (r : Road) : Road.Moves e r (r.append e en) := by
  unfold Road.append
  exact ite (fun _ => refl r) fun h => trans (one (.push r en hm (by simpa using h))) (pump _)

theorem dropMarker (r : Road) : Road.Moves e r (r.dropMarker e) := by
  unfold Road.dropMarker
  refine ite (fun _ => trans (one (.dropMarker r)) (pump _)) fun h => one (.noMarker r ?_)
  simpa using h

theorem offerFetch (en : Entry) (w : HeadWork) :
    ∀ (l : List FetchItem) (r0 r : Road) (b : Bool) (r' : Road), Road.Moves e r0 r →
      r.offerFetch e en w l b = .changed r' → Road.Moves e r0 r'
  | [], r0, r, b, r', h0, h => by
    unfold Road.offerFetch at h
    split at h
    · cases h; exact trans h0 (pump r)
    · cases h
  | it :: rest, r0, r, b, r', h0, h => by
    unfold Road.offerFetch at h
    split at h
    · exact offerFetch en w rest r0 _ true r' (trans h0 (endFetch _ _)) h
    · split at h
      · split at h
        · cases h; exact h0
        · cases h
      · split at h
        · split at h
          · cases h; exact h0
          · cases h
        · cases h

theorem offerReconcile :
    ∀ (l : List UnitId) (r0 r : Road) (b : Bool) (r' : Road), Road.Moves e r0 r →
      r.offerReconcile e l b = .changed r' → Road.Moves e r0 r'
  | [], r0, r, b, r', h0, h => by
    unfold Road.offerReconcile at h
    split at h
    · cases h; exact trans h0 (pump r)
    · cases h
  | u :: rest, r0, r, b, r', h0, h => by
    unfold Road.offerReconcile at h
    split at h
    · exact offerReconcile rest r0 _ true r' (trans h0 (endPart _ _)) h
    · split at h
      · split at h
        · cases h; exact h0
        · cases h
      · split at h
        · split at h
          · cases h; exact h0
          · cases h
        · exact offerReconcile rest r0 _ true r' (trans h0 (endPart _ _)) h

theorem offer (r : Road) (l : Fin 4) (r' : Road) (h : r.offer e l = .changed r') :
    Road.Moves e r r' := by
  unfold Road.offer at h
  split at h
  · split at h
    · exact offerFetch _ _ _ r r _ r' (refl r) h
    · exact offerReconcile _ r r _ r' (refl r) h
  · cases h

theorem takeTransfer (l : Fin 4) :
    ∀ (n : Nat) (r : Road), Road.Moves e r (takeTransfer e l n r).1
  | 0, r => refl r
  | n + 1, r => by
    unfold Machine.takeTransfer
    split
    · exact refl r
    · exact refl r
    · rename_i r' h
      exact trans (offer r l r' h) (takeTransfer l n r')

/-! ### Sections and gates -/

theorem flagFault (stays : Bool) (after : PosState) (r : Road) :
    Road.Moves e r (r.flagFault stays after) := by
  unfold Road.flagFault
  exact ite (fun _ => raise _ _) fun _ => refl r

theorem makeOrder (r : Road) (g : Fin 16) : Road.Moves e r (r.makeOrder g) := by
  unfold Road.makeOrder
  split
  · exact refl r
  · rename_i x hx
    exact trans (trans (setGate r g _ x hx (by rfl)) (flagFault _ _ _)) (setLine _ _ _)

theorem setSec (r : Road) (i : Fin 8) (x : SectionRec) (y : SecState) (hy : r.secState i = some y)
    (ho : x.state.standing = y.standing)
    (hs : y = .sweep → x.state = .sweep ∨ r.occOf i = some (.known 0))
    (hn : x.state = .opening → y = .opening) : Road.Moves e r (r.setSec i x) :=
  one (.sec r i x y hy ho hs hn)

theorem enter (i : Fin 8) (st y : SecState) (r : Road) (hy : r.secState i = some y)
    (ho : st.standing = y.standing)
    (hs : y = .sweep → st = .sweep ∨ r.occOf i = some (.known 0))
    (hn : st = .opening → y = .opening) : Road.Moves e r (r.enter i st) :=
  trans (setSec r i _ y hy ho hs hn) (raise _ _)

theorem secState_of {r : Road} {i : Fin 8} {x : SectionRec} (h : r.sec i = some x) :
    r.secState i = some x.state := by simp [Road.secState, h]

theorem sweepTest (i : Fin 8) (r : Road) : Road.Moves e r (r.sweepTest e i) := by
  unfold Road.sweepTest
  split
  · rename_i x hx
    refine ite (fun h => ?_) fun _ => refl r
    have hst := secState_of hx
    rw [h.1] at hst
    refine enter i _ .sweep r hst ?_ (fun _ => .inr h.2.2) ?_ <;> split <;> simp [SecState.standing]
  · exact refl r

theorem enterSweep (i : Fin 8) (r : Road) (h : r.secState i = some .shutting) :
    Road.Moves e r (r.enterSweep e i) :=
  trans (trans (setSec r i _ .shutting h rfl (by simp) (by simp)) (raise _ _)) (sweepTest i _)

theorem gateTest (i : Fin 8) (r : Road) : Road.Moves e r (r.gateTest e i) := by
  unfold Road.gateTest
  split
  · rename_i h
    exact ite (fun _ => enterSweep i r h) fun _ => refl r
  · rename_i h
    exact ite (fun _ => enter i _ .opening r h rfl (by simp) (by simp)) fun _ => refl r
  · exact refl r

theorem enterShutting (i : Fin 8) (r : Road) (y : SecState) (h : r.secState i = some y)
    (hs : y ≠ .sweep) : Road.Moves e r (r.enterShutting e i) :=
  trans (one (.shut r i y h hs)) (gateTest i _)

theorem readyTest (i : Fin 8) (r : Road) : Road.Moves e r (r.readyTest e i) := by
  unfold Road.readyTest
  split
  · rename_i x hx
    exact ite (fun h => enterShutting i r _ (secState_of hx) (by rw [h.1]; simp)) fun _ => refl r
  · exact refl r

theorem readyTests (r : Road) : Road.Moves e r (r.readyTests e) :=
  foldl _ (fun r i => readyTest i r) _ _

theorem leadRun (i : Fin 8) (r : Road) (y : SecState) (h : r.secState i = some y)
    (hs : y ≠ .sweep) : Road.Moves e r (r.leadRun e i) := by
  unfold Road.leadRun
  exact ite (fun _ => enterShutting i r y h hs) fun _ => refl r

theorem enterNotice (i : Fin 8) (r : Road) (h : r.secState i = some .isOpen) :
    Road.Moves e r (r.enterNotice e i) := by
  unfold Road.enterNotice
  have h1 : Road.Moves e r ((r.setSec i ⟨.notice, some 0, none, none, false⟩).raise .sectionChange) :=
    trans (setSec r i _ .isOpen h rfl (by simp) (by simp)) (raise _ _)
  refine ite (fun _ => trans h1 (leadRun i _ .notice ?_ (by simp))) fun _ => h1
  rw [secState_raise, secState_setSec_self]

theorem coverageOf (r : Road) (i : Fin 8) : Road.Moves e r (r.coverageOf e i) := by
  unfold Road.coverageOf
  split
  · rename_i h
    exact ite (fun _ => enterShutting i r _ h (by simp)) fun _ =>
      ite (fun _ => enterNotice i r h) fun _ => refl r
  · rename_i h
    exact ite (fun _ => enter i _ _ r h rfl (by simp) (by simp)) fun _ =>
      ite (fun _ => enterShutting i r _ h (by simp)) fun _ => readyTest i r
  · rename_i h
    exact ite (fun _ => refl r) fun _ => enter i _ _ r h rfl (by simp) (by simp)
  · rename_i h
    exact ite (fun _ => enter i _ _ r h rfl (by simp) (by simp)) fun _ => refl r
  · rename_i h
    exact ite (fun _ => enterShutting i r _ h (by simp)) fun _ => refl r
  · exact refl r
  · exact refl r
  · exact refl r

theorem coverageNoticeTo (f : PlanSection → Bool) (r : Road) :
    Road.Moves e r (r.coverageNoticeTo e f) :=
  foldl _ (fun r i => ite (fun _ => coverageOf r i) fun _ => refl r) _ _

theorem coverageNotice (a b : Nat) (r : Road) : Road.Moves e r (r.coverageNotice e a b) :=
  coverageNoticeTo _ r

theorem orderOutcome (g : Fin 16) (d : Order) (a : Bool) (r : Road) :
    Road.Moves e r (r.orderOutcome g d a) := by
  unfold Road.orderOutcome
  split
  · exact refl r
  · rename_i x hx
    exact ite (fun _ => setGate r g _ x hx (by split <;> rfl)) fun _ => refl r

theorem gateLost (g : Fin 16) (r : Road) : Road.Moves e r (r.gateLost g) := by
  unfold Road.gateLost
  split
  · exact refl r
  · rename_i x hx
    exact setGate r g _ x hx (by rfl)

theorem travelLimit (g : Fin 16) (r : Road) : Road.Moves e r (r.travelLimit e g) := by
  unfold Road.travelLimit
  split
  · exact refl r
  · rename_i x hx
    exact ite (fun _ => trans (trans (setGate r g _ x hx (by rfl)) (raise _ _)) (gateTest _ _))
      fun _ => refl r

/-! ### Postings -/

theorem named_posting {r : Road} {h : Handle} {p : Posting} (hp : r.named h = some p) :
    (r.slot h.slot).posting = some p := by
  unfold Road.named at hp
  split at hp
  · exact hp
  · cases hp

/-- A handle that names a posting is its slot's present handle. -/
theorem named_handle {r : Road} {h : Handle} {p : Posting} (hp : r.named h = some p) :
    r.handleAt h.slot = h := by
  unfold Road.named at hp
  split at hp
  · rename_i hg
    cases h
    simp only [Road.handleAt] at *
    rw [hg]
  · cases hp

theorem setPosting_eq (r : Road) (i : Fin 256) (q : Posting) :
    r.setPosting i q = r.rewritten i q (r.slot i).version r.freeLines r.dir := rfl

theorem vset_vset {α : Type} {n : Nat} (v : Vector α n) (i : Fin n) (a b : α) :
    vset (vset v i a) i b = vset v i b := by
  simp [vset]

theorem setPosting_bump (r : Road) (i : Fin 256) (q : Posting) :
    (r.setPosting i q).bumpVersion i =
      r.rewritten i q ((r.slot i).version + 1) r.freeLines r.dir := by
  simp only [Road.setPosting, Road.bumpVersion, Road.setSlot, Road.rewritten, Road.slot, vset_vset,
    vget_vset_self]

theorem swapText_eq (r : Road) (i : Fin 256) (q : Posting) (t : List (List Byte)) :
    r.swapText i q t = r.rewritten i { q with text := t } (r.slot i).version
      (r.freeLines + q.text.length - t.length) r.dir := rfl

theorem swapText_bump (r : Road) (i : Fin 256) (q : Posting) (t : List (List Byte)) :
    (r.swapText i q t).bumpVersion i = r.rewritten i { q with text := t } ((r.slot i).version + 1)
      (r.freeLines + q.text.length - t.length) r.dir := by
  simp only [Road.swapText, Road.setPosting, Road.bumpVersion, Road.setSlot, Road.rewritten,
    Road.slot, vset_vset, vget_vset_self]

/-- A rewriting whose copy slots are marked with it. -/
theorem rewritten_mark (r : Road) (i : Fin 256) (q : Posting) (v : Byte) (fl : Nat) (h : Handle)
    (o : Bool) : (r.rewritten i q v fl r.dir).markCopies h o =
      r.rewritten i q v fl (r.markCopies h o).dir := rfl

theorem rewrite (r : Road) (i : Fin 256) (p q : Posting) (v : Byte) (fl : Nat)
    (d : Vector (List CopySlot) 48) (h : Rewrite e r i p q v fl d) :
    Road.Moves e r (r.rewritten i q v fl d) := one (.rewrite r i p q v fl d h)

theorem retire (i : Fin 256) (c : RetireCause) (o : Bool) (p : Posting) (r : Road)
    (hp : (r.slot i).posting = some p)
    (hpin : ∀ t, p.pin = some t → t ≤ e.now ∨ (r.LinkLaw → p.authority = .field)) :
    Road.Moves e r (r.retire e i c o) := by
  unfold Road.retire
  simp only [hp]
  unfold Road.markAndQueue
  rw [setPosting_eq, rewritten_mark]
  refine trans (rewrite r i p _ _ _ _ ?_) (append _ (by simp) _)
  refine ⟨hp, rfl, rfl, rfl, Iff.rfl, fun _ _ => ⟨rfl, rfl⟩, by simp, fun hl hf => (hl.own i p hp (by
    rw [hf]; simp)).2.2 hf, fun _ => .inr ⟨rfl, hpin⟩, by simp, .inr ⟨o, rfl⟩⟩

theorem revive (i : Fin 256) (pin : Option Nat) (p : Posting) (r : Road)
    (hp : (r.slot i).posting = some p) (hs : p.state = .retiring)
    (ha : r.LinkLaw → p.authority ≠ .station)
    (hf : r.LinkLaw → p.authority = .field → pin = none) :
    Road.Moves e r (r.revive e i pin) := by
  unfold Road.revive
  simp only [hp]
  unfold Road.markAndQueue
  rw [setPosting_bump, rewritten_mark]
  refine trans (trans (rewrite r i p _ _ _ _ ?_) (append _ (by simp) _)) (coverageNotice _ _ _)
  refine ⟨hp, rfl, rfl, rfl, Iff.rfl, fun _ _ => ⟨rfl, rfl⟩, fun hl _ _ => ha hl, hf, ?_, ?_, .inr ⟨false, rfl⟩⟩
  · intro h; rw [hs] at h; cases h
  · intro h; rw [hs] at h; cases h

theorem lowestFree_posting {r : Road} {i : Fin 256} (h : r.lowestFree = some i) :
    (r.slot i).posting = none := by
  have := List.find?_some h
  simpa using this

theorem pinAfter (n : Nat) (r : Road) : Road.Moves e r (r.pinAfter e n).2 := by
  unfold Road.pinAfter
  split
  · exact refl r
  · exact fresh r _

theorem pinAfter_eq (n : Nat) (r : Road) :
    ∃ k, (r.pinAfter e n).2 = { r with fresh := k } := by
  unfold Road.pinAfter
  split
  · exact ⟨r.fresh, rfl⟩
  · exact ⟨_, rfl⟩

theorem createAuto (n : Fin 24) (x : PathRec) (p : Posting) (r : Road) (hx : r.path n = some x)
    (hl : r.LinkLaw → x.link = none) (ha : p.authority = .auto)
    (hk : p.kind = .closure ∧ p.expiry = none) (ht : p.text = []) (hp : p.path = some n.val) :
    Road.Moves e r (r.createClosure e p (Road.linkPath n)) := by
  unfold Road.createClosure
  split
  · exact refl r
  · rename_i i hi
    exact trans (trans (one (.auto r i p n x (lowestFree_posting hi) ha hk ht hp hx hl))
      (append _ (by simp) _)) (coverageNotice _ _ _)

theorem createField (g : Fin 16) (x : GateRec) (p : Posting) (r : Road) (hx : r.gate g = some x)
    (hl : r.LinkLaw → x.link = none) (ha : p.authority = .field)
    (hk : p.kind = .closure ∧ p.expiry = none) (ht : p.text = []) (hp : p.pin = none) :
    Road.Moves e r (r.createClosure e p (Road.linkGate g)) := by
  unfold Road.createClosure
  split
  · exact refl r
  · rename_i i hi
    exact trans (trans (one (.field r i p g x (lowestFree_posting hi) ha hk ht hp hx hl))
      (append _ (by simp) _)) (coverageNotice _ _ _)

/-- A path link that names nothing is no link, under the law of R18. -/
theorem pathLink_none {r : Road} {n : Fin 24} {x : PathRec} {h : Handle} (hx : r.path n = some x)
    (hh : x.link = some h) (hn : r.named h = none) (hl : r.LinkLaw) : x.link = none := by
  obtain ⟨p, hp, _⟩ := hl.path n x h hx hh
  rw [hn] at hp; cases hp

theorem gateLink_none {r : Road} {g : Fin 16} {x : GateRec} {h : Handle} (hx : r.gate g = some x)
    (hh : x.link = some h) (hn : r.namedState h = none) (hl : r.LinkLaw) : x.link = none := by
  obtain ⟨p, hp, _⟩ := hl.gate g x h hx hh
  simp [Road.namedState, hp] at hn

theorem autoClosure (n : Fin 24) (r : Road) : Road.Moves e r (r.autoClosure e n) := by
  unfold Road.autoClosure
  split
  · rename_i pl x _ hx
    obtain ⟨k, hk⟩ := pinAfter_eq (e := e) pl.hold r
    have h0 := pinAfter (e := e) pl.hold r
    generalize Road.pinAfter e pl.hold r = pr at hk h0 ⊢
    obtain ⟨pin, r1⟩ := pr
    dsimp only at hk h0 ⊢
    refine trans h0 ?_
    have hx1 : r1.path n = some x := by rw [hk]; exact hx
    clear h0 hk hx
    split
    · rename_i h hh
      split
      · rename_i q hq
        have hauth : r1.LinkLaw → q.authority = .auto := fun hl => by
          obtain ⟨p, hp, hpa, _⟩ := hl.path n x h hx1 hh
          rw [hq] at hp; rw [Option.some.inj hp]; exact hpa
        split
        · rename_i hs
          exact revive _ _ q _ (named_posting hq) hs (fun hl => by rw [hauth hl]; simp)
            fun hl hf => by rw [hauth hl] at hf; cases hf
        all_goals
          rename_i hs
          rw [setPosting_eq]
          refine rewrite _ _ q _ _ _ _ ⟨named_posting hq, rfl, rfl, rfl, Iff.rfl, fun _ _ => ⟨rfl, rfl⟩,
            (fun hl _ _ => by rw [hauth hl]; simp), (fun hl hf => by rw [hauth hl] at hf; cases hf),
            fun h => .inl h, fun _ _ t ht => ⟨_, rfl, by rw [ht]; exact Nat.le_max_left _ _⟩,
            .inl ⟨rfl, fun h => ⟨h, rfl⟩⟩⟩
      · rename_i hq
        exact createAuto n x _ r1 hx1 (pathLink_none hx1 hh hq) rfl ⟨rfl, rfl⟩ rfl rfl
    · rename_i hh
      exact createAuto n x _ r1 hx1 (fun _ => hh) rfl ⟨rfl, rfl⟩ rfl rfl
  · exact refl r

theorem fieldClosure (g : Fin 16) (r : Road) : Road.Moves e r (r.fieldClosure e g) := by
  unfold Road.fieldClosure
  split
  · exact refl r
  · rename_i x hx
    split
    · exact refl r
    · dsimp only
      split
      · rename_i h hh
        split
        · rename_i hs
          unfold Road.namedState at hs
          rw [Option.map_eq_some_iff] at hs
          obtain ⟨q, hq, hs⟩ := hs
          refine revive _ _ q _ (named_posting hq) hs (fun hl => ?_) fun _ _ => rfl
          obtain ⟨p, hp, hpa⟩ := hl.gate g x h hx hh
          rw [hq] at hp; rw [Option.some.inj hp, hpa]; simp
        · exact refl r
        · exact refl r
        · rename_i hs
          exact createField g x _ r hx (gateLink_none hx hh hs) rfl ⟨rfl, rfl⟩ rfl rfl
      · rename_i hh
        exact createField g x _ r hx (fun _ => hh) rfl ⟨rfl, rfl⟩ rfl rfl

theorem keyReturn (g : Fin 16) (r : Road) : Road.Moves e r (r.keyReturn e g) := by
  unfold Road.keyReturn
  split
  · exact refl r
  · rename_i h hh
    split
    · rename_i p hp
      refine ite (fun _ => trans (retire _ _ _ p r (named_posting hp) fun t _ => .inr fun hl => ?_)
        (coverageNotice _ _ _)) fun _ => refl r
      rw [Option.bind_eq_some_iff] at hh
      obtain ⟨x, hx, hh⟩ := hh
      obtain ⟨p', hp', hpa⟩ := hl.gate g x h hx hh
      rw [hp] at hp'; rw [Option.some.inj hp', hpa]
    · exact refl r

/-! ### Path Watch -/

theorem autoAction (c : AutoCause) (r : Road) (p : Fin 24) :
    Road.Moves e r (r.autoAction e c p) := by
  unfold Road.autoAction
  refine trans (autoClosure p r) ?_
  dsimp only
  split
  · exact refl _
  · rename_i x hx
    exact setPath _ _ _ x hx rfl

theorem enterSilent (p : Fin 24) (r : Road) : Road.Moves e r (r.enterSilent e p) := by
  unfold Road.enterSilent
  split
  · exact refl r
  · rename_i x hx
    have h1 := trans (setPath (e := e) r p
      { x with watch := .silent, timer := none, count := 0, baseline := none } x hx rfl)
      (raise _ .pathSilent)
    exact ite (fun _ => trans h1 (autoAction _ _ _)) fun _ => h1

theorem tripTest (p : Fin 24) (r : Road) : Road.Moves e r (r.tripTest e p) := by
  unfold Road.tripTest
  split
  · exact refl r
  · dsimp only
    split
    · refine trans (trans (raise r .pathTrip) (autoAction .trip _ p)) ?_
      split
      · exact refl _
      · rename_i y hy
        exact setPath _ _ _ y hy rfl
    · exact refl r

theorem newTrips (p : Fin 24) (n : Nat) (r : Road) : Road.Moves e r (r.newTrips e p n) := by
  unfold Road.newTrips
  split
  · exact refl r
  · rename_i x hx
    split
    · exact trans (setPath r _ _ x hx (by rfl)) (tripTest p _)
    · exact trans (setPath r _ _ x hx (by rfl)) (tripTest p _)
    · exact refl r
    · exact refl r
    · exact refl r

theorem monitorReport (t : Byte) (f : Bool) (r : Road) (p : Fin 24) :
    Road.Moves e r (r.monitorReport e t f p) := by
  unfold Road.monitorReport
  split
  · exact refl r
  · rename_i x hx
    have reports : Road.Moves e r
        (if f then r.enterSilent e p
         else if (t - x.baseline.getD t).toNat = 0 then r.setPath p { x with baseline := some t }
          else Road.newTrips e p (t - x.baseline.getD t).toNat
            (r.setPath p { x with baseline := some t })) :=
      ite (fun _ => enterSilent p r) fun _ =>
        ite (fun _ => setPath r _ _ x hx (by rfl)) fun _ =>
          trans (setPath r _ _ x hx (by rfl)) (newTrips p _ _)
    split
    · exact refl r
    · exact ite (fun _ => enterSilent p r) fun _ => setPath r _ _ x hx (by rfl)
    · exact ite (fun _ => refl r) fun _ => setPath r _ _ x hx (by rfl)
    · exact reports
    · exact reports

theorem monitorLost (r : Road) (p : Fin 24) : Road.Moves e r (r.monitorLost e p) := by
  unfold Road.monitorLost
  split <;> first | exact enterSilent p r | exact refl r

theorem dangerNotice (r : Road) (p : Fin 24) : Road.Moves e r (r.dangerNotice e p) := by
  unfold Road.dangerNotice
  split
  · exact refl r
  · rename_i x hx
    refine ite (fun _ => refl r) fun _ => ?_
    have h1 := setPath (e := e) r p { x with level := r.tableLevel p } x hx rfl
    dsimp only
    split
    · exact trans h1 (tripTest p _)
    · exact ite (fun _ => trans h1 (autoAction _ _ _)) fun _ => h1
    · exact h1
    · exact h1
    · exact h1

theorem modeNotice (r : Road) : Road.Moves e r (r.modeNotice e) :=
  foldl _ (fun r p => autoAction .silent r p) _ _

theorem windowRunOut (p : Fin 24) (r : Road) : Road.Moves e r (r.windowRunOut p) := by
  unfold Road.windowRunOut
  split
  · exact refl r
  · rename_i x hx
    exact ite (fun _ => setPath r _ _ x hx (by rfl)) fun _ => refl r

theorem notices (p : Posting) (r : Road) : Road.Moves e r (r.notices e p) := by
  unfold Road.notices
  split
  · exact coverageNotice _ _ r
  · split
    · exact dangerNotice r _
    · exact refl r
  · exact refl r
  · exact refl r
  · exact refl r

/-- A PENDING posting starts. -/
theorem start (i : Fin 256) (p : Posting) (r : Road) (hp : (r.slot i).posting = some p)
    (hs : p.state = .pending) : Road.Moves e r (r.setPosting i { p with state := .active }) := by
  rw [setPosting_eq]
  refine rewrite _ _ p _ _ _ _ ⟨hp, rfl, rfl, rfl, Iff.rfl, fun _ _ => ⟨rfl, rfl⟩, ?_, ?_, ?_, ?_,
    .inl ⟨rfl, fun h => ⟨rfl, rfl⟩⟩⟩
  · intro _ _ h; rw [hs] at h; cases h
  · exact fun hl hf => (hl.own i p hp (by rw [hf]; simp)).2.2 hf
  · intro h; rw [hs] at h; cases h
  · intro h; rw [hs] at h; cases h

theorem updateSlot (r : Road) (i : Fin 256) : Road.Moves e r (r.updateSlot e i).1 := by
  unfold Road.updateSlot
  split
  · exact refl r
  · rename_i p hp
    dsimp only
    have h1 : ∀ q, (if dueToStart e.now p = true then { p with state := .active } else p) = q →
        Road.Moves e r (r.setPosting i q) := by
      intro q hq
      split at hq
      · rename_i hd
        subst hq
        unfold dueToStart at hd
        simp only [Bool.and_eq_true, beq_iff_eq] at hd
        exact start i p r hp hd.1
      · subst hq
        have : r.setPosting i p = r := by
          unfold Road.setPosting Road.setSlot
          rw [← hp]
          have : vset r.slots i (r.slot i) = r.slots := by
            unfold Road.slot vset vget
            simp
          show { r with slots := vset r.slots i (r.slot i) } = r
          rw [this]
        rw [this]; exact refl r
    generalize hq : (if dueToStart e.now p = true then { p with state := .active } else p) = q
    have h2 := h1 q hq
    split
    · rename_i hx
      refine trans (trans h2 (raise _ _)) (retire _ _ _ q _ ?_ fun t ht => .inl ?_)
      · simp [Road.setPosting]
      · unfold dueToExpire passedOrAbsent at hx
        simp only [Bool.and_eq_true, ht, Option.all_some, decide_eq_true_eq] at hx
        exact hx.2
    · split
      · exact trans h2 (append _ (by simp) _)
      · exact refl r

theorem updateSlots : ∀ (l : List (Fin 256)) (r : Road),
    Road.Moves e r (Road.updateSlots e l r).1
  | [], r => refl r
  | i :: is, r => by
    unfold Road.updateSlots
    exact trans (updateSlot r i) (updateSlots is _)

theorem passTimeEvent (r : Road) : Road.Moves e r (r.passTimeEvent e) := by
  unfold Road.passTimeEvent
  have h := updateSlots (e := e) allSlots r
  generalize Road.updateSlots e allSlots r = x at h ⊢
  obtain ⟨a, b⟩ := x
  exact trans (trans (trans h (freeTest a)) (foldl _ (fun r p => notices p r) b _))
    (readyTests _)

/-! ### Reports of gates -/

theorem keyLocal (r : Road) (g : Fin 16) : Road.Moves e r (r.keyLocal g) := by
  unfold Road.keyLocal
  split
  · exact refl r
  · rename_i x hx
    exact trans (setGate r _ _ x hx (by rfl)) (setLine _ _ _)

theorem keyRule (b : Option KeyMode) (k : KeyMode) (g : Fin 16) (r : Road) :
    Road.Moves e r (r.keyRule b k g) := by
  unfold Road.keyRule
  dsimp only
  split <;> split <;>
    first
      | exact trans (raise r _) (keyLocal _ g)
      | exact raise r _
      | exact keyLocal r g
      | exact refl r

theorem fieldRule (g : Fin 16) (r : Road) : Road.Moves e r (r.fieldRule e g) := by
  unfold Road.fieldRule
  split
  · exact refl r
  · exact ite (fun _ => fieldClosure g r) fun _ =>
      ite (fun _ => keyReturn g r) fun _ => refl r

theorem travelEnd (g : Fin 16) (r : Road) : Road.Moves e r (r.travelEnd g) := by
  unfold Road.travelEnd
  split
  · exact refl r
  · rename_i x hx
    exact ite (fun _ => setGate r _ _ x hx (by rfl)) fun _ => refl r

theorem resend (g : Fin 16) (r : Road) : Road.Moves e r (r.resend g) := by
  unfold Road.resend
  split
  · exact refl r
  · exact ite (fun _ => makeOrder r g) fun _ => refl r

theorem gateReport (g : Fin 16) (p : GatePos) (k : KeyMode) (r : Road) :
    Road.Moves e r (r.gateReport e g p k) := by
  unfold Road.gateReport
  split
  · exact refl r
  · rename_i x hx
    have h2 := trans (setGate (e := e) r g (x.reportedAs p k) x hx rfl)
      (flagFault (x.pos == .fault && !x.retried) (x.reportedAs p k).pos _)
    have h3 := trans (trans (trans (trans h2 (keyRule x.key k g _)) (fieldRule g _))
      (travelEnd g _)) (resend g _)
    exact ite (fun _ => trans h3 (gateTest _ _)) fun _ => h3

/-! ### The copy directory -/

theorem record (r : Road) (u : UnitId) (new : List CopySlot)
    (hd : (handlesOf (r.dirOf u)).Nodup → (handlesOf new).Nodup)
    (hc : ∀ h v, CopySlot.current h v ∈ new → CopySlot.current h v ∈ r.dirOf u ∨
      r.namedState h = some .active ∧ r.version h = v) : Road.Moves e r (r.record u new) := by
  unfold Road.record
  exact ite (fun _ => trans (setDirOf r u new hd hc) (freeTest _)) fun _ => setDirOf r u new hd hc

theorem mem_handles {h : Handle} {l : List CopySlot} :
    h ∈ handlesOf l ↔ ∃ c ∈ l, c.handle? = some h := by
  simp [handlesOf, List.mem_filterMap]

/-- A record that names nothing may stand anywhere. -/
theorem nodup_set_none (l : List CopySlot) (n : Nat) (c : CopySlot) (hc : c.handle? = none)
    (h : (handlesOf l).Nodup) : (handlesOf (l.set n c)).Nodup := by
  induction l generalizing n with
  | nil => simp
  | cons a l ih =>
    cases n with
    | zero =>
      simp only [List.set_cons_zero, handlesOf, List.filterMap_cons, hc]
      simp only [handlesOf, List.filterMap_cons] at h
      split at h
      · exact h
      · exact (List.nodup_cons.mp h).2
    | succ n =>
      simp only [List.set_cons_succ, handlesOf, List.filterMap_cons] at h ⊢
      split at h
      · exact ih n h
      · rename_i b hb
        rw [List.nodup_cons] at h ⊢
        refine ⟨fun hm => h.1 ?_, ih n h.2⟩
        obtain ⟨c', hc', hh⟩ := mem_handles.mp hm
        rcases List.mem_or_eq_of_mem_set hc' with hc' | rfl
        · exact mem_handles.mpr ⟨c', hc', hh⟩
        · rw [hc] at hh; cases hh

/-- A record may name a handle that no other record names. -/
theorem nodup_set_new (l : List CopySlot) (n : Nat) (c : CopySlot) (x : Handle)
    (hc : c.handle? = some x) (hx : x ∉ handlesOf l) (h : (handlesOf l).Nodup) :
    (handlesOf (l.set n c)).Nodup := by
  induction l generalizing n with
  | nil => simp
  | cons a l ih =>
    have hx' : x ∉ handlesOf l := fun hm => hx (by
      obtain ⟨c', hc', hh⟩ := mem_handles.mp hm
      exact mem_handles.mpr ⟨c', List.mem_cons_of_mem _ hc', hh⟩)
    have hl : (handlesOf l).Nodup := by
      simp only [handlesOf, List.filterMap_cons] at h
      split at h
      · exact h
      · exact (List.nodup_cons.mp h).2
    cases n with
    | zero =>
      simp only [List.set_cons_zero, handlesOf, List.filterMap_cons, hc]
      exact List.nodup_cons.mpr ⟨hx', hl⟩
    | succ n =>
      simp only [List.set_cons_succ, handlesOf, List.filterMap_cons] at h ⊢
      split at h
      · exact ih n hx' h
      · rename_i b hb
        rw [List.nodup_cons] at h ⊢
        refine ⟨fun hm => ?_, ih n hx' h.2⟩
        obtain ⟨c', hc', hh⟩ := mem_handles.mp hm
        rcases List.mem_or_eq_of_mem_set hc' with hc' | rfl
        · exact h.1 (mem_handles.mpr ⟨c', hc', hh⟩)
        · rw [hc] at hh
          exact hx (mem_handles.mpr ⟨a, List.mem_cons_self, by rw [hb, Option.some.inj hh]⟩)

/-- The records of a unit with every record that names a handle emptied. -/
theorem nodup_emptied (l : List CopySlot) (x : Handle) (h : (handlesOf l).Nodup) :
    x ∉ handlesOf (l.map fun c => if c.handle? = some x then .empty else c) ∧
    (handlesOf (l.map fun c => if c.handle? = some x then .empty else c)).Nodup := by
  constructor
  · intro hm
    obtain ⟨c, hc, hh⟩ := mem_handles.mp hm
    obtain ⟨c', _, rfl⟩ := List.mem_map.mp hc
    split at hh
    · cases hh
    · contradiction
  · have hs : (handlesOf (l.map fun c => if c.handle? = some x then .empty else c)).Sublist
        (handlesOf l) := by
      clear h
      induction l with
      | nil => exact List.Sublist.refl _
      | cons a l ih =>
        simp only [handlesOf, List.map_cons, List.filterMap_cons] at ih ⊢
        by_cases ha : a.handle? = some x
        · simp only [ha, if_true]
          exact List.Sublist.cons _ ih
        · simp only [if_neg ha]
          split
          · exact ih
          · exact List.Sublist.cons_cons _ ih
    exact hs.nodup h

theorem heldAs_handle (r : Road) (h : Handle) (v : Byte) : (r.heldAs h v).handle? = some h := by
  unfold Road.heldAs
  split <;> rfl

theorem heldAs_current {r : Road} {h x : Handle} {v w : Byte}
    (hc : CopySlot.current x w = r.heldAs h v) : r.namedState x = some .active ∧ r.version x = w := by
  unfold Road.heldAs at hc
  split at hc
  · rename_i ht
    cases hc; exact ht
  · cases hc

theorem committed (u : UnitId) (n : Nat) (h : Handle) (v : Byte) (r : Road) :
    Road.Moves e r (r.committed e u n h v) := by
  have h1 : Road.Moves e r (r.record u (((r.dirOf u).map fun c =>
      if c.handle? = some h then .empty else c).set n (r.heldAs h v))) := by
    refine record r u _ (fun hn => ?_) fun x w hm => ?_
    · have := nodup_emptied (r.dirOf u) h hn
      exact nodup_set_new _ _ _ h (heldAs_handle r h v) this.1 this.2
    · rcases List.mem_or_eq_of_mem_set hm with hm | hm
      · obtain ⟨c, hc, hcc⟩ := List.mem_map.mp hm
        split at hcc
        · cases hcc
        · exact .inl (hcc ▸ hc)
      · exact .inr (heldAs_current hm)
  unfold Road.committed
  exact ite (fun _ => trans h1 (append _ (by simp) _)) fun _ => h1

theorem cleared (u : UnitId) (n : Nat) (r : Road) : Road.Moves e r (r.cleared u n) := by
  refine record r u _ (fun hn => nodup_set_none _ _ _ rfl hn) fun x w hm => ?_
  rcases List.mem_or_eq_of_mem_set hm with hm | hm
  · exact .inl hm
  · cases hm

theorem failed (u : UnitId) (t : Transfer) (r : Road) : Road.Moves e r (r.failed e u t) := by
  unfold Road.failed
  refine trans ?_ (pump _)
  have h1 := trans (trans (setAwaits (e := e) r u true) (append (.unit u) (by simp) _)) (endPart _ u)
  split
  · exact trans h1 (endFetch _ _)
  all_goals exact h1

theorem copiesLost (u : UnitId) (r : Road) : Road.Moves e r (r.copiesLost e u) := by
  unfold Road.copiesLost
  refine trans (trans (trans (trans (endPart r u) (endFetch _ _)) (setAwaits _ u false))
    (record _ u _ (fun _ => ?_) fun h v hm => ?_)) (pump _)
  · have : handlesOf ((r.dirOf u).map fun _ => CopySlot.unknown) = [] := by
      simp [handlesOf, CopySlot.handle?]
    exact this ▸ List.nodup_nil
  · obtain ⟨c, _, hc⟩ := List.mem_map.mp hm
    cases hc

/-- A record replaced by another of the same handle. -/
theorem handles_set_same (l : List CopySlot) (n : Nat) (c : CopySlot)
    (h : (l.getD n .unknown).handle? = c.handle?) (hn : n < l.length) :
    handlesOf (l.set n c) = handlesOf l := by
  induction l generalizing n with
  | nil => rfl
  | cons a l ih =>
    cases n with
    | zero =>
      have h' : a.handle? = c.handle? := h
      simp [handlesOf, List.filterMap_cons, h']
    | succ n =>
      have := ih n (by simpa using h) (by simpa using hn)
      simp only [handlesOf, List.set_cons_succ, List.filterMap_cons] at this ⊢
      rw [this]

theorem overruled (r : Road) (u : UnitId) (n : Nat) (h : Handle) (b : Byte)
    (hc : (r.dirOf u).getD n .unknown = .amended h b) :
    Road.Moves e r (r.setCopy u n (.overruled h b)) := by
  have hn : n < (r.dirOf u).length := by
    by_contra hn
    rw [List.getD_eq_default _ _ (by omega)] at hc
    cases hc
  refine setDirOf r u _ (fun hd => ?_) fun x w hm => ?_
  · rw [handles_set_same _ n _ (by rw [hc]; rfl) hn]; exact hd
  · rcases List.mem_or_eq_of_mem_set hm with hm | hm
    · exact .inl hm
    · cases hm

theorem merge (u : UnitId) (h : Handle) (sev : Option Nat) (text : Option (List (List Byte)))
    (p : Posting) (r : Road) (base : Byte) (hp : r.named h = some p)
    (hm : r.mergeable h base text p = true) : Road.Moves e r (r.merge e u h sev text p) := by
  unfold Road.mergeable at hm
  simp only [Bool.and_eq_true, beq_iff_eq] at hm
  obtain ⟨⟨⟨hs, ha⟩, _⟩, hf⟩ := hm
  have hl : (text.getD p.text).length ≤ r.freeLines + p.text.length := by
    cases text with
    | none => exact Nat.le_add_left _ _
    | some t =>
      rw [Option.all_some, Bool.and_eq_true] at hf
      exact of_decide_eq_true hf.2
  unfold Road.merge Road.markAndQueue
  dsimp only
  rw [swapText_bump]
  refine trans ?_ (append _ (by simp) _)
  refine trans (rewrite r h.slot p
    { p with severity := sev.getD p.severity, source := some u, text := text.getD p.text }
    ((r.slot h.slot).version + 1) (r.freeLines + p.text.length - (text.getD p.text).length)
    (r.markCopies h false).dir ?_) (raise _ .amendMerged)
  refine ⟨named_posting hp, ?_, rfl, rfl, Iff.rfl, fun _ _ => ⟨rfl, rfl⟩, fun _ _ h => ?_, fun _ h => ?_,
    fun h => .inl h, fun _ _ t ht => ⟨t, ht, le_refl t⟩, .inr ⟨false, ?_⟩⟩
  · dsimp only; omega
  · rw [hs] at h; cases h
  · rw [ha] at h; cases h
  · rw [named_handle hp]

theorem fetched (u : UnitId) (n : Nat) (h : Handle) (base : Byte) (sev : Option Nat)
    (text : Option (List (List Byte))) (r : Road) :
    Road.Moves e r (r.fetched e u n h base sev text) := by
  have merged : ∀ (r : Road) (st : Standing), Road.Moves e r
      (match st, r.named h with
        | Standing.amended, some p =>
          if r.mergeable h base text p then r.merge e u h sev text p else r.raise .amendDiscarded
        | _, _ => r.raise .amendDiscarded) := by
    intro r st
    split
    · rename_i p hp
      exact ite (fun hm => merge u h sev text p r base hp hm) fun _ => raise r _
    · exact raise r _
  unfold Road.fetched
  dsimp only
  refine trans (trans (trans ?_ (merged _ _)) (endFetch _ _)) (pump _)
  split
  · rename_i h' b hc _
    exact overruled r u n h' b hc
  · exact refl r

theorem dedupe_mem : ∀ (cs : List CopySlot) (seen : List Handle) (c : CopySlot),
    c ∈ dedupe seen cs → c = .empty ∨ c ∈ cs
  | [], _, c, h => .inr h
  | a :: cs, seen, c, h => by
    unfold dedupe at h
    split at h
    · rcases List.mem_cons.mp h with h | h
      · exact .inr (h ▸ List.mem_cons_self)
      · exact (dedupe_mem cs _ c h).imp id (List.mem_cons_of_mem _)
    · split at h
      · rcases List.mem_cons.mp h with h | h
        · exact .inl h
        · exact (dedupe_mem cs _ c h).imp id (List.mem_cons_of_mem _)
      · rcases List.mem_cons.mp h with h | h
        · exact .inr (h ▸ List.mem_cons_self)
        · exact (dedupe_mem cs _ c h).imp id (List.mem_cons_of_mem _)

/-- R71: each handle stays in one record alone. -/
theorem dedupe_nodup : ∀ (cs : List CopySlot) (seen : List Handle),
    (∀ x ∈ seen, x ∉ handlesOf (dedupe seen cs)) ∧ (handlesOf (dedupe seen cs)).Nodup
  | [], _ => ⟨fun _ _ h => (by cases h), List.nodup_nil⟩
  | a :: cs, seen => by
    unfold dedupe
    split
    · rename_i ha
      have := dedupe_nodup cs seen
      simpa [handlesOf, List.filterMap_cons, ha] using this
    · rename_i h ha
      split
      · have := dedupe_nodup cs seen
        simpa [handlesOf, List.filterMap_cons, CopySlot.handle?] using this
      · rename_i hs
        obtain ⟨h1, h2⟩ := dedupe_nodup cs (h :: seen)
        have hcons : handlesOf (a :: dedupe (h :: seen) cs) = h :: handlesOf (dedupe (h :: seen) cs) := by
          simp [handlesOf, ha]
        rw [hcons]
        refine ⟨fun x hx hm => ?_, List.nodup_cons.mpr ⟨h1 h List.mem_cons_self, h2⟩⟩
        rcases List.mem_cons.mp hm with hm | hm
        · subst hm; simp at hs; exact hs hx
        · exact h1 x (List.mem_cons_of_mem _ hx) hm

theorem copiesReport (u : UnitId) (first : Bool) (slots : List SlotReport) (r : Road) :
    Road.Moves e r (r.copiesReport e u first slots) := by
  unfold Road.copiesReport
  dsimp only
  have h1 : Road.Moves e r ((r.setAwaits u false).record u (dedupe []
      (if first = true then List.map r.firstRecorded slots
        else List.map (fun x => x.1.afterReport x.2) ((r.dirOf u).zip slots)))) := by
    refine trans (setAwaits r u false) (record _ u _ (fun _ => (dedupe_nodup _ []).2) fun h v hm => ?_)
    rcases dedupe_mem _ _ _ hm with hm | hm
    · cases hm
    · split at hm
      · obtain ⟨s, _, hs⟩ := List.mem_map.mp hm
        unfold Road.firstRecorded at hs
        split at hs
        · cases hs
        · split at hs
          · cases hs
          · exact .inr (heldAs_current hs.symm)
      · obtain ⟨⟨c, s⟩, hcs, hc⟩ := List.mem_map.mp hm
        unfold CopySlot.afterReport at hc
        split at hc
        · left
          have := (List.of_mem_zip hcs).1
          simp only at hc
          rw [hc] at this; exact this
        · unfold recordedAs at hc
          split at hc
          · cases hc
          · split at hc <;> cases hc
  have hentries : ∀ en ∈ (if first = true then [] else r.reportEntries (r.dirOf u) slots),
      en ≠ .marker := by
    intro en hen
    split at hen
    · cases hen
    · unfold Road.reportEntries at hen
      obtain ⟨x, _, hx⟩ := List.mem_filterMap.mp hen
      split at hx
      · split at hx
        · cases hx
        · rw [← Option.some.inj hx]; simp
      · cases hx
  generalize (if first = true then [] else r.reportEntries (r.dirOf u) slots) = es at hentries ⊢
  have h2 : ∀ (es : List Entry) (r : Road), (∀ en ∈ es, en ≠ .marker) →
      Road.Moves e r (es.foldl (fun r en => r.append e en) r) := by
    intro es
    induction es with
    | nil => exact fun r _ => refl r
    | cons a es ih =>
      intro r h
      exact trans (append a (h a List.mem_cons_self) r) (ih _ fun en he => h en (List.mem_cons_of_mem _ he))
  exact ite (fun _ => trans (trans h1 (h2 es _ hentries)) (append _ (by simp) _))
    fun _ => trans h1 (h2 es _ hentries)

/-! ### The lines -/

theorem startRound (l : Fin 4) (r : Road) : Road.Moves e r (r.startRound l) := by
  unfold Road.startRound
  split
  · exact refl r
  · exact trans (setLine r _ _) (send _ _ _ _)

theorem newTransfer (l : Fin 4) (r : Road) : Road.Moves e r (r.newTransfer e l) := by
  have h := takeTransfer (e := e) l r.looks r
  unfold Road.newTransfer
  split
  · rename_i r' t hr
    rw [hr] at h
    exact trans h (trans (setLine r' _ _) (send _ _ _ _))
  · rename_i r' hr
    rw [hr] at h
    exact trans h (startRound l r')

theorem workOpportunity (l : Fin 4) (r : Road) :
    Road.Moves e r (r.workOpportunity e l) := by
  unfold Road.workOpportunity
  split
  · exact send r _ _ _
  · split
    · exact send r _ _ _
    · exact newTransfer l r

theorem afterExchange (l : Fin 4) (s : Sent) (r : Road) :
    Road.Moves e r (r.afterExchange e l s) := by
  unfold Road.afterExchange
  split
  · exact workOpportunity l r
  · exact startRound l r
  · exact startRound l r

theorem stepFailed (l : Fin 4) (t : Transfer) (r : Road) :
    Road.Moves e r (r.stepFailed e l t) := by
  unfold Road.stepFailed
  exact ite (fun _ => setLine r _ _) fun _ => trans (setLine r _ _) (failed _ _ _)

theorem workAck (l : Fin 4) (t : Transfer) (r r' : Road) (h : r.workAck e l t = some r') :
    Road.Moves e r r' := by
  unfold Road.workAck at h
  split at h
  · cases h; exact trans (setLine r _ _) (committed _ _ _ _ _)
  · rw [Option.map_eq_some_iff] at h
    obtain ⟨s, _, rfl⟩ := h
    exact setLine r _ _
  · cases h; exact trans (setLine r _ _) (cleared _ _ _)
  · cases h

theorem workText (l : Fin 4) (t : Transfer) (s : XStep) (r r' : Road)
    (h : r.workText l t s = some r') : Road.Moves e r r' := by
  unfold Road.workText at h
  split at h
  · split at h
    · cases h
    · cases h; exact setLine r _ _
  · cases h

theorem orderAnswered (l : Fin 4) (a : Fin 12) (d : Order) (k : Bool) (r : Road) :
    Road.Moves e r (r.orderAnswered e l a d k) := by
  unfold Road.orderAnswered
  dsimp only
  split
  · refine trans ?_ (orderOutcome _ _ _ _)
    exact setLine _ _ _
  · exact setLine _ _ _

theorem orderMissed (l : Fin 4) (a : Fin 12) (r : Road) : Road.Moves e r (r.orderMissed l a) :=
  setLine r l _

theorem lose (u : UnitId) (r : Road) : Road.Moves e r (r.lose e u) := by
  unfold Road.lose
  dsimp only
  refine trans (trans (trans ?_ (readyTests _)) (foldl _ (fun r p => monitorLost r p) _ _))
    (raise _ _)
  have h1 := fun x y => trans (trans (setLink (e := e) r u x) (setLine (r.setLink u x) u.line y))
    (copiesLost u ((r.setLink u x).setLine u.line y))
  split
  · exact trans (h1 _ _) (gateLost _ _)
  · exact h1 _ _

theorem noAnswer (l : Fin 4) (ex : Exchange) (r : Road) :
    Road.Moves e r (r.noAnswer e l ex) := by
  unfold Road.noAnswer
  dsimp only
  split
  · exact lose _ r
  · have h1 := setLink (e := e) r ⟨l, ex.addr⟩
    split
    · exact h1 _
    · exact trans (h1 _) (orderMissed _ _ _)
    · split
      · exact trans (h1 _) (stepFailed l _ _)
      · exact h1 _

theorem answered (l : Fin 4) (a : Byte) (take : Exchange → Road → Option Road) (r : Road)
    (h : ∀ ex r r', take ex r = some r' → Road.Moves e r r') :
    Road.Moves e r (r.answered e l a take) := by
  unfold Road.answered
  split
  · exact refl r
  · rename_i ex _
    dsimp only
    refine trans (trans ?_ (readyTests _)) (afterExchange l _ _)
    have h0 := setLine (e := e) r l { r.line l with inFlight := none }
    split
    · generalize hT : take ex _ = o
      cases o with
      | none => exact trans h0 (noAnswer l ex _)
      | some r' => exact trans (trans h0 (setLink _ _ _)) (h ex _ _ hT)
    · exact trans h0 (noAnswer l ex _)

theorem unanswered (l : Fin 4) (r : Road) : Road.Moves e r (r.unanswered e l) :=
  answered l 0 _ r fun _ _ _ h => by cases h

theorem takeAck (l : Fin 4) (ex : Exchange) (r r' : Road)
    (h : r.takeAck e l ex = some r') : Road.Moves e r r' := by
  unfold Road.takeAck at h
  split at h
  · cases h
  · cases h; exact orderAnswered l _ _ _ r
  · rw [Option.bind_eq_some_iff] at h
    obtain ⟨t, _, ht⟩ := h
    exact workAck l t r r' ht

theorem takeText (l : Fin 4) (s : XStep) (ex : Exchange) (r r' : Road)
    (h : r.takeText l s ex = some r') : Road.Moves e r r' := by
  unfold Road.takeText at h
  split at h
  · cases h
  · cases h
  · rw [Option.bind_eq_some_iff] at h
    obtain ⟨t, _, ht⟩ := h
    exact workText l t s r r' ht

theorem takeNak (l : Fin 4) (ex : Exchange) (r r' : Road)
    (h : r.takeNak e l ex = some r') : Road.Moves e r r' := by
  unfold Road.takeNak at h
  split at h
  · cases h
  · cases h; exact orderAnswered l _ _ _ r
  · rw [Option.map_eq_some_iff] at h
    obtain ⟨t, _, rfl⟩ := h
    exact stepFailed l t r

theorem takeAmend (l : Fin 4) (base : Byte) (sev : Option Nat)
    (text : Option (List (List Byte))) (ex : Exchange) (r r' : Road)
    (h : r.takeAmend e l base sev text ex = some r') : Road.Moves e r r' := by
  unfold Road.takeAmend at h
  split at h
  · cases h
  · cases h
  · split at h
    · split at h
      · split at h
        · cases h; exact trans (setLine r _ _) (fetched _ _ _ _ _ _ _)
        · cases h
      · cases h
      · cases h
    · cases h

theorem handOn (u : UnitId) (first : Bool) (rep : Report) (r : Road) :
    Road.Moves e r (r.handOn e u first rep) := by
  unfold Road.handOn
  split
  · exact copiesReport u first _ r
  · dsimp only
    split
    · exact trans (copiesReport u first _ r) (gateReport _ _ _ _)
    · exact copiesReport u first _ r
  · exact foldl _ (fun r p => monitorReport _ _ r p) _ _

theorem takeStatus (rep : Report) (l : Fin 4) (ex : Exchange) (r r' : Road)
    (h : r.takeStatus e rep l ex = some r') : Road.Moves e r r' := by
  unfold Road.takeStatus at h
  dsimp only at h
  split at h
  · cases h
  · cases h
  · split at h
    · rw [← Option.some.inj h]
      refine trans ?_ (handOn _ _ _ _)
      exact ite (fun _ => trans (setLink r _ _) (raise _ _)) fun _ => setLink r _ _
    · exact absurd h (by simp)

/-! ### Requests -/

theorem post (i : Fin 256) (p : Posting) (r : Road) (h : (r.slot i).posting = none)
    (ha : p.authority = .station) (ht : p.text.length ≤ r.freeLines) (hf : r.full = false)
    (hd : p.kind = .danger → r.hasDanger p.path = false) : Road.Moves e r (r.post e i p) := by
  unfold Road.post
  have h1 := one (e := e) (Road.Move.station r i p h ha ht hf hd)
  exact ite (fun _ => trans (trans (trans h1 (append _ (by simp) _)) (notices p _)) (readyTests _))
    fun _ => h1

theorem changeNotices (p q : Posting) (r : Road) :
    Road.Moves e r (r.changeNotices e p q) := by
  have h : ∀ (c d : Prop) [Decidable c] [Decidable d] (f : PlanSection → Bool), Road.Moves e r
      (let r' := if c then r.coverageNoticeTo e f else r
       if d then r'.notices e q else r') := by
    intro c d _ _ f
    have h1 : Road.Moves e r (if c then r.coverageNoticeTo e f else r) :=
      ite (fun _ => coverageNoticeTo f r) fun _ => refl r
    exact ite (fun _ => trans h1 (notices q _)) fun _ => h1
  exact h _ _ _

/-- A CHANGE that fits neither makes nor unmakes a DANGER posting. -/
theorem applied_danger {b : ChangeBody} {p : Posting} (hf : b.fits e p = true) :
    (b.applied p).kind = .danger ↔ p.kind = .danger := by
  unfold ChangeBody.fits at hf
  simp only [Bool.and_eq_true] at hf
  have hk := hf.1.1.1.1.1.1.1.1.2
  show b.kind.getD p.kind = .danger ↔ _
  cases hb : b.kind with
  | none => simp
  | some k =>
    rw [hb] at hk
    simp only [Option.all_some, Bool.and_eq_true, bne_iff_ne, ne_eq] at hk
    simp [hk.1, hk.2]

/-- A CHANGE that fits moves a pin only later (R12, R25). -/
theorem applied_pin {b : ChangeBody} {p : Posting} (hf : b.fits e p = true) (t : Nat)
    (ht : p.pin = some t) : ∃ t', (b.applied p).pin = some t' ∧ t ≤ t' := by
  unfold ChangeBody.fits ChangeBody.timesFit at hf
  simp only [Bool.and_eq_true] at hf
  have hk := hf.2.1.1
  show ∃ t', (b.pin.orElse fun _ => p.pin) = some t' ∧ _
  cases hb : b.pin with
  | none => exact ⟨t, by simp [ht], le_refl t⟩
  | some k =>
    rw [hb, ht] at hk
    exact ⟨k, by simp, by simpa using hk⟩

theorem change (b : ChangeBody) (h : Handle) (p : Posting) (r : Road)
    (hp : r.named h = some p) (ha : p.authority = .station) (hs : p.state ≠ .retiring)
    (hfit : b.fits e p = true) (hf : b.text.any (fun t => !r.fits p t) = false) :
    Road.Moves e r (r.change e b h p) := by
  have hlen : (b.applied p).text.length ≤ r.freeLines + p.text.length := by
    show (b.text.getD p.text).length ≤ _
    cases ht : b.text with
    | none => simp
    | some t => simpa [ht, Road.fits] using hf
  unfold Road.change
  dsimp only
  generalize hq : (if p.state = .pending ∧ b.start.any (· ≤ e.now) = true then
    { b.applied p with state := .active } else b.applied p) = q
  have hqa : q.authority = p.authority := by subst hq; split <;> rfl
  have hqp : q.path = p.path := by subst hq; split <;> rfl
  have hqt : q.text = (b.applied p).text := by subst hq; split <;> rfl
  have hqk : q.kind = (b.applied p).kind := by subst hq; split <;> rfl
  have hqpin : q.pin = (b.applied p).pin := by subst hq; split <;> rfl
  have hqs : p.state = .active → q.state = .active := by
    intro h; subst hq; split
    · rfl
    · exact h
  have hqact : p.state ≠ .active → p.state = .pending := by
    intro h
    cases hx : p.state
    · rfl
    · exact absurd hx h
    · exact absurd hx hs
  have hrw : ∀ v d, (d = r.dir ∧ (p.state = .active → v = (r.slot h.slot).version)) ∨
      d = (r.markCopies h b.overrule).dir → Rewrite e r h.slot p q v
        (r.freeLines + p.text.length - q.text.length) d := by
    intro v d hd
    refine ⟨named_posting hp, ?_, hqa, hqp, ?_, fun _ hn => absurd ha hn, fun _ _ h => absurd h hs,
      fun _ hn => ?_, fun h => .inl (hqs h), fun _ _ t ht => ?_, ?_⟩
    · rw [hqt]; omega
    · rw [hqk]; exact applied_danger hfit
    · rw [ha] at hn; cases hn
    · rw [hqpin]; exact applied_pin hfit t ht
    · rcases hd with ⟨h1, h2⟩ | h1
      · exact .inl ⟨h1, fun hh => ⟨hqs hh, h2 hh⟩⟩
      · exact .inr ⟨b.overrule, by rw [named_handle hp]; exact h1⟩
  have hsw : r.swapText h.slot { q with text := p.text } q.text =
      r.rewritten h.slot q (r.slot h.slot).version (r.freeLines + p.text.length - q.text.length)
        r.dir := rfl
  have hbump : (r.swapText h.slot { q with text := p.text } q.text).bumpVersion h.slot =
      r.rewritten h.slot q ((r.slot h.slot).version + 1)
        (r.freeLines + p.text.length - q.text.length) r.dir := swapText_bump _ _ _ _
  rw [hsw, ← hsw, hbump, hsw]
  by_cases hr : (b.applied p).carried ≠ p.carried
  · simp only [if_pos hr]
    have hqc : q.carried ≠ p.carried := by
      have : q.carried = (b.applied p).carried := by subst hq; split <;> rfl
      rw [this]; exact hr
    by_cases hact : p.state = .active
    · simp only [if_pos hact]
      have h2 : Road.Moves e r ((r.rewritten h.slot q ((r.slot h.slot).version + 1)
          (r.freeLines + p.text.length - q.text.length) r.dir).markAndQueue e h b.overrule) := by
        unfold Road.markAndQueue
        rw [rewritten_mark]
        exact trans (rewrite _ _ p _ _ _ _ (hrw _ _ (.inr rfl))) (append _ (by simp) _)
      exact trans (trans h2 (changeNotices _ _ _)) (readyTests _)
    · simp only [if_neg hact]
      have h3 := rewrite r h.slot p q ((r.slot h.slot).version + 1) _ r.dir
        (hrw _ _ (.inl ⟨rfl, fun h => absurd h hact⟩))
      exact ite (fun _ => trans (trans (trans h3 (append _ (by simp) _)) (notices _ _)) (readyTests _))
        fun _ => h3
  · simp only [if_neg hr]
    have h3 := rewrite r h.slot p q (r.slot h.slot).version _ r.dir
      (hrw _ _ (.inl ⟨rfl, fun _ => rfl⟩))
    exact ite (fun _ => h3) fun _ => ite (fun _ => trans (trans (trans h3 (append _ (by simp) _))
      (notices _ _)) (readyTests _)) fun _ => h3

theorem retireByHost (o : Bool) (h : Handle) (p : Posting) (r : Road) (hp : r.named h = some p)
    (hpin : p.pin.filter (e.now < ·) = none) : Road.Moves e r (r.retireByHost e o h p) := by
  refine trans (trans (retire _ _ _ p r (named_posting hp) fun t ht => .inl ?_) (notices p _))
    (readyTests _)
  rw [ht] at hpin
  simpa [Option.filter] using hpin

theorem retry (g : Fin 16) (x : GateRec) (r : Road) (hx : r.gate g = some x) :
    Road.Moves e r (r.retry e g x) := by
  unfold Road.retry
  dsimp only
  have h1 := trans (setGate (e := e) r g { x with pos := x.posFromReport, retried := true } x hx rfl)
    (flagFault (x.pos == .fault) x.posFromReport _)
  exact ite (fun _ => trans h1 (makeOrder _ _)) fun _ =>
    trans (trans h1 (makeOrder _ _)) (gateTest _ _)

/-! ### Timers -/

theorem noticeReachesLead (i : Fin 8) (r : Road) : Road.Moves e r (r.noticeReachesLead i e) := by
  unfold Road.noticeReachesLead
  split
  · rename_i x hx
    refine ite (fun hn => ?_) fun _ => refl r
    have hs : r.secState i = some .notice := by rw [secState_of hx, hn]
    refine trans (setSec r i { x with notice := some (max (x.notice.getD 0) (leadMs e i)) } _ hs
      (by rw [hn]) (by simp) (by rw [hn]; simp)) (leadRun i _ .notice ?_ (by simp))
    rw [secState_setSec_self]
    exact congrArg some hn
  · exact refl r

theorem noticeWaitOver (i : Fin 8) (r : Road) : Road.Moves e r (r.noticeWaitOver i e) := by
  unfold Road.noticeWaitOver
  exact ite (fun h => enterShutting i r _ h (by simp)) fun _ => refl r

theorem sweepMinimumRun (i : Fin 8) (r : Road) : Road.Moves e r (r.sweepMinimumRun i e) := by
  unfold Road.sweepMinimumRun
  split
  · rename_i x hx
    exact ite (fun h => trans (setSec r i { x with sweepMin := none } _ (secState_of hx) rfl
      (fun _ => .inl h.1) fun h => h) (sweepTest i _)) fun _ => refl r
  · exact refl r

theorem sweepOverdueRun (i : Fin 8) (r : Road) : Road.Moves e r (r.sweepOverdueRun i e) := by
  unfold Road.sweepOverdueRun
  split
  · rename_i x hx
    exact ite (fun h => trans (setSec r i { x with sweepOver := none, overdue := true } _
      (secState_of hx) rfl (fun _ => .inl h.1) fun h => h) (raise _ _)) fun _ => refl r
  · exact refl r

theorem rise (i : Fin 16) (r : Road) : Road.Moves e r (r.rise i) := by
  unfold Road.rise
  dsimp only
  split
  · exact refl r
  all_goals exact setInput r i _

end Moves

end Sys2Proof.Machine
end

