-- ==== Sys2Proof/Laws/Keeps.lean ====
section
/-! SUPPORT. The laws of the device at the road blocks: every primitive move, and so every run of moves,
keeps them. -/

namespace Sys2Proof.Machine

/-! ### Sums over the table -/

/-- A sum over an index range when one term changes. -/
theorem sum_change {n : Nat} (f g : Fin n → Nat) (i : Fin n) (h : ∀ j, j ≠ i → f j = g j) :
    ((List.finRange n).map f).sum + g i = ((List.finRange n).map g).sum + f i := by
  rw [← Fin.sum_univ_def, ← Fin.sum_univ_def]
  have hf := Finset.add_sum_erase Finset.univ f (Finset.mem_univ i)
  have hg := Finset.add_sum_erase Finset.univ g (Finset.mem_univ i)
  have hs : ∑ j ∈ Finset.univ.erase i, f j = ∑ j ∈ Finset.univ.erase i, g j :=
    Finset.sum_congr rfl fun j hj => h j (Finset.ne_of_mem_erase hj)
  omega

/-- Text lines of one slot. -/
def Slot.lines (x : Slot) : Nat := (x.posting.map fun p => p.text.length).getD 0

theorem textLines_change {r r' : Road} (i : Fin 256) (h : ∀ j, j ≠ i → r'.slot j = r.slot j) :
    r'.textLines + (r.slot i).lines = r.textLines + (r'.slot i).lines :=
  sum_change (fun j => (r'.slot j).lines) (fun j => (r.slot j).lines) i fun j hj => by
    simp only [h j hj]

/-- One slot's share of a count of postings. -/
def Slot.counts (f : Posting → Bool) (x : Slot) : Nat := if x.posting.any f then 1 else 0

theorem countPostings_sum (r : Road) (f : Posting → Bool) :
    r.countPostings f = (allSlots.map fun i => (r.slot i).counts f).sum := by
  unfold Road.countPostings Road.postings
  induction allSlots with
  | nil => rfl
  | cons a l ih =>
    simp only [List.filterMap_cons, List.map_cons, List.sum_cons]
    rw [← ih]
    cases h : (r.slot a).posting with
    | none => simp [Slot.counts, h]
    | some p =>
      cases hf : f p <;> simp [Slot.counts, h, hf]
      omega

theorem countPostings_change {r r' : Road} (f : Posting → Bool) (i : Fin 256)
    (h : ∀ j, j ≠ i → r'.slot j = r.slot j) :
    r'.countPostings f + (r.slot i).counts f = r.countPostings f + (r'.slot i).counts f := by
  rw [countPostings_sum, countPostings_sum]
  exact sum_change (fun j => (r'.slot j).counts f) (fun j => (r.slot j).counts f) i fun j hj => by
    simp only [h j hj]

/-! ### What an order to the gates of a section changes -/

/-- Section, unit, travel limit and FIELD link of a gate record. -/
def GateRec.place (z : GateRec) : Fin 8 × (UnitId × Nat) × Option Handle :=
  (z.sec, (z.unit, z.travel), z.link)

theorem flagFault_frame (stays : Bool) (after : PosState) (r : Road) :
    ∃ fl, r.flagFault stays after = { r with flags := fl } := by
  unfold Road.flagFault
  split
  · exact ⟨_, rfl⟩
  · exact ⟨r.flags, rfl⟩

theorem setStanding_frame (d : Order) (r : Road) (g : Fin 16) :
    ∃ gd ln fl, Road.setStanding d r g = { r with gates := gd, lines := ln, flags := fl }
      ∧ (∀ g', (vget gd g').map GateRec.place = (vget r.gates g').map GateRec.place)
      ∧ (∀ g', g' ≠ g → vget gd g' = vget r.gates g')
      ∧ ∀ z, vget gd g = some z → z.standing = d := by
  have same : ∀ x y : GateRec, r.gate g = some x → y.place = x.place → ∀ g',
      (vget (vset r.gates g (some y)) g').map GateRec.place = (vget r.gates g').map GateRec.place := by
    intro x y hx hy g'
    rw [vget_vset]
    split
    · rename_i h; subst h
      have hx' : vget r.gates g = some x := hx
      simp [hx', hy]
    · rfl
  have other : ∀ (y : GateRec) g', g' ≠ g → vget (vset r.gates g (some y)) g' = vget r.gates g' :=
    fun y g' h => vget_vset_ne _ _ _ _ (Ne.symm h)
  unfold Road.setStanding
  cases hx : r.gate g with
  | none =>
    exact ⟨r.gates, r.lines, r.flags, rfl, fun _ => rfl, fun _ _ => rfl, fun z hz => by
      have hz' : r.gate g = some z := hz
      rw [hx] at hz'; cases hz'⟩
  | some x =>
    dsimp only
    split
    · rename_i hs
      exact ⟨r.gates, r.lines, r.flags, rfl, fun _ => rfl, fun _ _ => rfl, fun z hz => by
        have hz' : r.gate g = some z := hz
        rw [hx] at hz'; rw [← Option.some.inj hz']; exact hs⟩
    · split
      · unfold Road.makeOrder
        rw [gate_setGate]
        simp only [if_true]
        obtain ⟨fl, hfl⟩ := flagFault_frame (x.pos == .fault) (GateRec.posOrdered { x with standing := d })
          ((r.setGate g { x with standing := d }).setGate g { x with
            standing := d, phase := .pending, timer := none,
            pos := GateRec.posOrdered { x with standing := d } })
        rw [hfl]
        refine ⟨vset (vset r.gates g (some { x with standing := d })) g _, _, fl, rfl, ?_, ?_, ?_⟩
        · intro g'
          rw [Moves.vset_vset]
          exact same x _ hx (by rfl) g'
        · intro g' h
          rw [Moves.vset_vset]
          exact other _ g' h
        · intro z hz
          rw [vget_vset_self] at hz
          rw [← Option.some.inj hz]
      · refine ⟨_, _, r.flags, rfl, same x _ hx (by rfl), other _, fun z hz => ?_⟩
        rw [vget_vset_self] at hz
        rw [← Option.some.inj hz]

theorem order_frame (d : Order) : ∀ (l : List (Fin 16)) (r : Road),
    ∃ gd ln fl, l.foldl (Road.setStanding d) r = { r with gates := gd, lines := ln, flags := fl }
      ∧ (∀ g', (vget gd g').map GateRec.place = (vget r.gates g').map GateRec.place)
      ∧ (∀ g', g' ∉ l → vget gd g' = vget r.gates g')
      ∧ ∀ g' ∈ l, ∀ z, vget gd g' = some z → z.standing = d
  | [], r => ⟨r.gates, r.lines, r.flags, rfl, fun _ => rfl, fun _ _ => rfl, fun _ h => by cases h⟩
  | g :: l, r => by
    obtain ⟨gd, ln, fl, he, h1, h2, h3⟩ := setStanding_frame d r g
    rw [List.foldl_cons, he]
    obtain ⟨gd', ln', fl', he', h1', h2', h3'⟩ :=
      order_frame d l { r with gates := gd, lines := ln, flags := fl }
    refine ⟨gd', ln', fl', he', fun g' => (h1' g').trans (h1 g'), fun g' hg => ?_, fun g' hg z hz => ?_⟩
    · simp only [List.mem_cons, not_or] at hg
      rw [h2' g' hg.2]; exact h2 g' hg.1
    · by_cases hm : g' ∈ l
      · exact h3' g' hm z hz
      · rcases List.mem_cons.mp hg with rfl | hg
        · rw [h2' g' hm] at hz; exact h3 z hz
        · exact absurd hg hm

namespace Keeps

variable {e : Env}

/-! ### The text pool and the reserve -/

theorem rewritten_slot_ne (r : Road) (i : Fin 256) (q : Posting) (v : Byte) (fl : Nat)
    (d : Vector (List CopySlot) 48) (j : Fin 256) (h : j ≠ i) :
    (r.rewritten i q v fl d).slot j = r.slot j := by
  show (r.setSlot i _).slot j = _
  rw [slot_setSlot, if_neg (Ne.symm h)]

theorem rewritten_slot_self (r : Road) (i : Fin 256) (q : Posting) (v : Byte) (fl : Nat)
    (d : Vector (List CopySlot) 48) : (r.rewritten i q v fl d).slot i =
      { gen := (r.slot i).gen, version := v, posting := some q } := by
  show (r.setSlot i _).slot i = _
  rw [slot_setSlot_self]

theorem occupy_slot (r : Road) (i : Fin 256) (p : Posting) (j : Fin 256) :
    (r.occupy i p).slot j = if i = j then
      { gen := (r.slot i).gen + 1, version := (r.slot i).version + 1, posting := some p }
      else r.slot j := by
  show (r.setSlot i _).slot j = _
  rw [slot_setSlot]

/-- Freeing empties the slot and keeps every other; the lines return; links to it clear. -/
theorem free_frame (r : Road) (i : Fin 256) (p : Posting) (h : (r.slot i).posting = some p) :
    ∃ pd gd, r.free i = { r.setSlot i { r.slot i with posting := none } with
        freeLines := r.freeLines + p.text.length, paths := pd, gates := gd }
      ∧ (∀ n x, vget r.paths n = some x → ∃ y, vget pd n = some y ∧
          (y.link = x.link ∧ (p.authority ≠ .station → x.link ≠ some (r.handleAt i)) ∨
            p.authority ≠ .station ∧ x.link = some (r.handleAt i) ∧ y.link = none))
      ∧ (∀ n, vget r.paths n = none → vget pd n = none)
      ∧ (∀ g x, vget r.gates g = some x → ∃ y, vget gd g = some y ∧ y.sec = x.sec
          ∧ (y.unit, y.travel) = (x.unit, x.travel) ∧ y.standing = x.standing ∧
          (y.link = x.link ∧ (p.authority ≠ .station → x.link ≠ some (r.handleAt i)) ∨
            p.authority ≠ .station ∧ x.link = some (r.handleAt i) ∧ y.link = none))
      ∧ (∀ g, vget r.gates g = none → vget gd g = none) := by
  unfold Road.free
  simp only [h]
  split
  · rename_i ha
    exact ⟨r.paths, r.gates, rfl, fun n x hx => ⟨x, hx, .inl ⟨rfl, fun hn => absurd ha hn⟩⟩,
      fun _ h => h, fun g x hx => ⟨x, hx, rfl, rfl, rfl, .inl ⟨rfl, fun hn => absurd ha hn⟩⟩,
      fun _ h => h⟩
  · rename_i ha
    refine ⟨_, _, rfl, fun n x hx => ?_, fun n hn => ?_, fun g x hx => ?_, fun g hg => ?_⟩
    · rw [vget_vofFn]
      show ∃ y, (vget r.paths n).map _ = some y ∧ _
      rw [hx]
      refine ⟨_, rfl, ?_⟩
      dsimp only
      split
      · rename_i hl; exact .inr ⟨ha, hl, rfl⟩
      · rename_i hl; exact .inl ⟨rfl, fun _ => hl⟩
    · rw [vget_vofFn]
      show (vget r.paths n).map _ = none
      rw [hn]; rfl
    · rw [vget_vofFn]
      show ∃ y, (vget r.gates g).map _ = some y ∧ _
      rw [hx]
      refine ⟨_, rfl, ?_⟩
      dsimp only
      split
      · rename_i hl; exact ⟨rfl, rfl, rfl, .inr ⟨ha, hl, rfl⟩⟩
      · rename_i hl; exact ⟨rfl, rfl, rfl, .inl ⟨rfl, fun _ => hl⟩⟩
    · rw [vget_vofFn]
      show (vget r.gates g).map _ = none
      rw [hg]; rfl

theorem free_slot (r : Road) (i : Fin 256) (p : Posting) (h : (r.slot i).posting = some p)
    (j : Fin 256) : (r.free i).slot j =
      if i = j then { r.slot i with posting := none } else r.slot j := by
  obtain ⟨pd, gd, he, _⟩ := free_frame r i p h
  rw [he]
  show (r.setSlot i _).slot j = _
  rw [slot_setSlot]

theorem free_lines (r : Road) (i : Fin 256) (p : Posting) (h : (r.slot i).posting = some p) :
    (r.free i).freeLines = r.freeLines + p.text.length := by
  obtain ⟨pd, gd, he, _⟩ := free_frame r i p h
  rw [he]

/-- The freeing test changes the table, its pool and the links of its owners, and nothing else. -/
theorem freeTest_frame (r : Road) : ∃ sl fr pd gd,
    r.freeTest = { r with slots := sl, freeLines := fr, paths := pd, gates := gd } := by
  unfold Road.freeTest
  induction allSlots generalizing r with
  | nil => exact ⟨_, _, _, _, rfl⟩
  | cons i l ih =>
    have h1 : ∃ sl fr pd gd,
        r.freeIf i = { r with slots := sl, freeLines := fr, paths := pd, gates := gd } := by
      unfold Road.freeIf
      split
      · rename_i hf
        unfold Road.freeable at hf
        split at hf
        · cases hf
        · rename_i p hp
          obtain ⟨pd, gd, he, _⟩ := free_frame r i p hp
          exact ⟨_, _, pd, gd, he⟩
      · exact ⟨_, _, _, _, rfl⟩
    obtain ⟨sl, fr, pd, gd, he⟩ := h1
    obtain ⟨sl', fr', pd', gd', he'⟩ := ih (r.freeIf i)
    exact ⟨sl', fr', pd', gd', by rw [List.foldl_cons, he', he]⟩

/-! What a closure's link writes. -/

theorem linkPath_frame (n : Fin 24) (h : Handle) (r : Road) (x : PathRec) (hx : r.path n = some x) :
    Road.linkPath n h r = { r with paths := vset r.paths n (some { x with link := some h }) } := by
  unfold Road.linkPath
  simp only [hx]
  rfl

theorem linkGate_frame (g : Fin 16) (h : Handle) (r : Road) (x : GateRec) (hx : r.gate g = some x) :
    Road.linkGate g h r = { r with gates := vset r.gates g (some { x with link := some h }) } := by
  unfold Road.linkGate
  simp only [hx]
  rfl

theorem pool_slot {r r' : Road} (i : Fin 256) (h : ∀ j, j ≠ i → r'.slot j = r.slot j)
    (hl : r'.freeLines + (r'.slot i).lines = r.freeLines + (r.slot i).lines)
    (hp : r.PoolLaw) : r'.PoolLaw := by
  have := textLines_change i h
  unfold Road.PoolLaw at *
  omega

theorem occupy_pool (r : Road) (i : Fin 256) (p : Posting) (h : (r.slot i).posting = none)
    (ht : p.text.length ≤ r.freeLines) (hp : r.PoolLaw) : (r.occupy i p).PoolLaw := by
  refine pool_slot (r := r) i (fun j hj => ?_) ?_ hp
  · rw [occupy_slot, if_neg (Ne.symm hj)]
  · rw [occupy_slot, if_pos rfl]
    show r.freeLines - p.text.length + p.text.length = r.freeLines + (r.slot i).lines
    simp only [Slot.lines, h, Option.map_none, Option.getD_none]
    omega

theorem pool_move {r r' : Road} (h : r.Move e r') (hp : r.PoolLaw) : r'.PoolLaw := by
  cases h with
  | free i p h hs =>
    refine pool_slot (r := r) i (fun j hj => by rw [free_slot r i p h, if_neg (Ne.symm hj)]) ?_ hp
    rw [free_slot r i p h, free_lines r i p h, if_pos rfl]
    simp [Slot.lines, h]
  | station i p h ha ht hf hd => exact occupy_pool r i p h ht hp
  | auto i p n x h ha hk ht hpp hx hl =>
    rw [linkPath_frame n _ (r.occupy i p) x hx]
    exact occupy_pool r i p h (by rw [ht]; exact Nat.zero_le _) hp
  | field i p g x h ha hk ht hpp hx hl =>
    rw [linkGate_frame g _ (r.occupy i p) x hx]
    exact occupy_pool r i p h (by rw [ht]; exact Nat.zero_le _) hp
  | rewrite i p q v fl d h =>
    refine pool_slot (r := r) i (fun j hj => rewritten_slot_ne r i q v fl d j hj) ?_ hp
    rw [rewritten_slot_self]
    show fl + q.text.length = r.freeLines + (r.slot i).lines
    rw [h.lines]
    simp [Slot.lines, h.was]
  | shut i y hy hs =>
    obtain ⟨gd, ln, fl', he, _⟩ := order_frame .toClose (sectionGates e i) (r.enter i .shutting)
    rw [he]; exact hp
  | _ => exact hp

/-- The count of STATION postings. -/
abbrev stations (r : Road) : Nat := r.countPostings fun p => p.authority == .station

theorem full_spec (r : Road) (hf : r.full = false) :
    stations r + 1 + r.reserve ≤ Config.capacity := by
  unfold Road.full Road.freeSlots Road.unusedReserve at hf
  have hsum : r.countPostings (fun _ => true) =
      stations r + r.countPostings (fun p => p.authority != .station) := by
    simp only [stations, countPostings_sum]
    induction allSlots with
    | nil => rfl
    | cons a l ih =>
      simp only [List.map_cons, List.sum_cons, ih]
      cases h : (r.slot a).posting with
      | none => simp [Slot.counts, h]
      | some p => cases ha : p.authority <;> simp [Slot.counts, h, ha] <;> omega
  rw [decide_eq_false_iff_not] at hf
  unfold Config.capacity at *
  omega

theorem reserve_slot {r r' : Road} (i : Fin 256) (h : ∀ j, j ≠ i → r'.slot j = r.slot j)
    (hr : r'.reserve = r.reserve)
    (hc : (r'.slot i).counts (fun p => p.authority == .station) ≤
      (r.slot i).counts (fun p => p.authority == .station))
    (hp : r.ReserveLaw) : r'.ReserveLaw := by
  have := countPostings_change (fun p => p.authority == .station) i h
  unfold Road.ReserveLaw at *
  rw [hr]
  omega

theorem reserve_move {r r' : Road} (h : r.Move e r') (hp : r.ReserveLaw) : r'.ReserveLaw := by
  cases h with
  | free i p h hs =>
    refine reserve_slot (r := r) i (fun j hj => by rw [free_slot r i p h, if_neg (Ne.symm hj)]) ?_ ?_ hp
    · obtain ⟨pd, gd, he, _⟩ := free_frame r i p h
      rw [he]; rfl
    · rw [free_slot r i p h, if_pos rfl]
      simp [Slot.counts]
  | station i p h ha ht hf hd =>
    have h1 := countPostings_change (r := r) (r' := r.occupy i p)
      (fun p => p.authority == .station) i fun j hj => by rw [occupy_slot, if_neg (Ne.symm hj)]
    have h2 := full_spec r hf
    rw [occupy_slot, if_pos rfl] at h1
    simp only [Slot.counts, h, ha, Option.any_none, Option.any_some] at h1
    unfold Road.ReserveLaw
    show _ + r.reserve ≤ _
    simp only [stations] at h2
    simp at h1
    omega
  | auto i p n x h ha hk ht hpp hx hl =>
    rw [linkPath_frame n _ (r.occupy i p) x hx]
    refine reserve_slot (r := r) i (r' := r.occupy i p) (fun j hj => by
      rw [occupy_slot, if_neg (Ne.symm hj)]) rfl ?_ hp
    rw [occupy_slot, if_pos rfl]
    simp [Slot.counts, ha]
  | field i p g x h ha hk ht hpp hx hl =>
    rw [linkGate_frame g _ (r.occupy i p) x hx]
    refine reserve_slot (r := r) i (r' := r.occupy i p) (fun j hj => by
      rw [occupy_slot, if_neg (Ne.symm hj)]) rfl ?_ hp
    rw [occupy_slot, if_pos rfl]
    simp [Slot.counts, ha]
  | rewrite i p q v fl d h =>
    refine reserve_slot (r := r) i (fun j hj => rewritten_slot_ne r i q v fl d j hj) rfl ?_ hp
    rw [rewritten_slot_self]
    simp [Slot.counts, h.was, h.authority]
  | shut i y hy hs =>
    obtain ⟨gd, ln, fl', he, _⟩ := order_frame .toClose (sectionGates e i) (r.enter i .shutting)
    rw [he]; exact hp
  | _ => exact hp

theorem reserve_eq {r r' : Road} (h : r.Move e r') : r'.reserve = r.reserve := by
  cases h with
  | free i p h hs =>
    obtain ⟨pd, gd, he, _⟩ := free_frame r i p h
    rw [he]; rfl
  | auto i p n x h ha hk ht hpp hx hl => rw [linkPath_frame n _ (r.occupy i p) x hx]; rfl
  | field i p g x h ha hk ht hpp hx hl => rw [linkGate_frame g _ (r.occupy i p) x hx]; rfl
  | shut i y hy hs =>
    obtain ⟨gd, ln, fl', he, _⟩ := order_frame .toClose (sectionGates e i) (r.enter i .shutting)
    rw [he]; rfl
  | _ => rfl

theorem occ_eq {r r' : Road} (h : r.Move e r') : r'.occ = r.occ := by
  cases h with
  | free i p h hs =>
    obtain ⟨pd, gd, he, _⟩ := free_frame r i p h
    rw [he]; rfl
  | auto i p n x h ha hk ht hpp hx hl => rw [linkPath_frame n _ (r.occupy i p) x hx]; rfl
  | field i p g x h ha hk ht hpp hx hl => rw [linkGate_frame g _ (r.occupy i p) x hx]; rfl
  | shut i y hy hs =>
    obtain ⟨gd, ln, fl', he, _⟩ := order_frame .toClose (sectionGates e i) (r.enter i .shutting)
    rw [he]; rfl
  | _ => rfl

/-- No SETTLE begins to wait in a move (R92: only a SETTLE begins one). -/
theorem settle_none {r r' : Road} (h : r.Move e r') (hs : r.settle = none) : r'.settle = none := by
  cases h with
  | popMarker => rfl
  | dropMarker => rfl
  | noMarker => rfl
  | free i p h _ =>
    obtain ⟨pd, gd, he, _⟩ := free_frame r i p h
    rw [he]; exact hs
  | auto i p n x h ha hk ht hpp hx hl => rw [linkPath_frame n _ (r.occupy i p) x hx]; exact hs
  | field i p g x h ha hk ht hpp hx hl => rw [linkGate_frame g _ (r.occupy i p) x hx]; exact hs
  | shut i y hy _ =>
    obtain ⟨gd, ln, fl', he, _⟩ := order_frame .toClose (sectionGates e i) (r.enter i .shutting)
    rw [he]; exact hs
  | _ => exact hs

/-! ### Links and DANGER postings -/

theorem named_iff {r : Road} {h : Handle} {p : Posting} :
    r.named h = some p ↔ (r.slot h.slot).gen = h.gen ∧ (r.slot h.slot).posting = some p := by
  unfold Road.named
  split <;> simp [*]

/-- The handle of a slot names what stands in it. -/
theorem named_handleAt {r : Road} {i : Fin 256} {p : Posting} (h : (r.slot i).posting = some p) :
    r.named (r.handleAt i) = some p := named_iff.mpr ⟨rfl, h⟩

theorem named_eq_handleAt {r : Road} {h : Handle} {p : Posting} (hn : r.named h = some p) :
    h = r.handleAt h.slot := (Moves.named_handle hn).symm

theorem map_link {α β : Type} {f : α → β} {a b : Option α} {x : α} (h : a.map f = b.map f)
    (hx : a = some x) : ∃ y, b = some y ∧ f y = f x := by
  subst hx
  cases b with
  | none => simp at h
  | some y => exact ⟨y, rfl, by simpa using h.symm⟩

/-- The link law reads of slots, and of the links in path and gate records. -/
theorem link_records {r r' : Road} (hs : ∀ i, r'.slot i = r.slot i)
    (hp : ∀ n, (r'.path n).map PathRec.link = (r.path n).map PathRec.link)
    (hg : ∀ g, (r'.gate g).map GateRec.link = (r.gate g).map GateRec.link) (hl : r.LinkLaw) :
    r'.LinkLaw := by
  have hn : ∀ h, r'.named h = r.named h := fun h => by unfold Road.named; rw [hs]
  have hh : ∀ i, r'.handleAt i = r.handleAt i := fun i => by unfold Road.handleAt; rw [hs]
  refine ⟨fun n x h hx hxl => ?_, fun g x h hx hxl => ?_, fun g g' x x' h hx hx' hxl hxl' => ?_,
    fun i p hi ha => ?_, fun i p hi ha => ?_, fun i p hi ha => ?_⟩
  · obtain ⟨y, hy, hyl⟩ := map_link (hp n) hx
    rw [hn]; exact hl.path n y h hy (hyl.trans hxl)
  · obtain ⟨y, hy, hyl⟩ := map_link (hg g) hx
    rw [hn]; exact hl.gate g y h hy (hyl.trans hxl)
  · obtain ⟨y, hy, hyl⟩ := map_link (hg g) hx
    obtain ⟨y', hy', hyl'⟩ := map_link (hg g') hx'
    exact hl.once g g' y y' h hy hy' (hyl.trans hxl) (hyl'.trans hxl')
  · rw [hs] at hi
    obtain ⟨n, x, hx, hxl⟩ := hl.auto i p hi ha
    obtain ⟨y, hy, hyl⟩ := map_link (hp n).symm hx
    exact ⟨n, y, hy, by rw [hh]; exact hyl.trans hxl⟩
  · rw [hs] at hi
    obtain ⟨g, x, hx, hxl⟩ := hl.field i p hi ha
    obtain ⟨y, hy, hyl⟩ := map_link (hg g).symm hx
    exact ⟨g, y, hy, by rw [hh]; exact hyl.trans hxl⟩
  · rw [hs] at hi; exact hl.own i p hi ha

theorem map_kept_link {a b : Option GateRec} (h : a.map GateRec.kept = b.map GateRec.kept) :
    a.map GateRec.link = b.map GateRec.link := by
  cases a <;> cases b <;> simp_all [GateRec.kept]

theorem map_place_link {a b : Option GateRec} (h : a.map GateRec.place = b.map GateRec.place) :
    a.map GateRec.link = b.map GateRec.link := by
  cases a <;> cases b <;> simp_all [GateRec.place]

theorem link_free (r : Road) (i : Fin 256) (p : Posting) (h : (r.slot i).posting = some p)
    (hl : r.LinkLaw) : (r.free i).LinkLaw := by
  have hs := free_slot r i p h
  obtain ⟨pd, gd, he, hp, hp0, hg, hg0⟩ := free_frame r i p h
  have hpath : ∀ n, (r.free i).path n = vget pd n := fun n => by rw [he]; rfl
  have hgate : ∀ g, (r.free i).gate g = vget gd g := fun g => by rw [he]; rfl
  have hh : ∀ j, (r.free i).handleAt j = r.handleAt j := fun j => by
    unfold Road.handleAt
    rw [hs]
    split
    · rename_i hij; subst hij; rfl
    · rfl
  have hn : ∀ x q, x ≠ r.handleAt i → r.named x = some q → (r.free i).named x = some q := by
    intro x q hx hq
    rw [named_iff] at hq ⊢
    rw [hs]
    split
    · rename_i hij
      exact absurd (by rw [hij]; exact named_eq_handleAt (named_iff.mpr hq)) hx
    · exact hq
  have hpost : ∀ j q, ((r.free i).slot j).posting = some q → j ≠ i ∧ (r.slot j).posting = some q := by
    intro j q hq
    rw [hs] at hq
    split at hq
    · cases hq
    · rename_i hij; exact ⟨Ne.symm hij, hq⟩
  -- a record of the result comes from one with the same link, which is not to the freed posting
  have hpold : ∀ n y x, vget pd n = some y → y.link = some x → ∃ z, r.path n = some z ∧
      z.link = some x ∧ (p.authority ≠ .station → x ≠ r.handleAt i) := by
    intro n y x hy hyl
    cases hz : vget r.paths n with
    | none => rw [hp0 n hz] at hy; cases hy
    | some z =>
      obtain ⟨y', hy', hcase⟩ := hp n z hz
      rw [hy] at hy'; cases hy'
      rcases hcase with ⟨h1, h2⟩ | ⟨_, _, h3⟩
      · exact ⟨z, hz, h1 ▸ hyl, fun ha hx => h2 ha (by rw [← h1, hyl, hx])⟩
      · rw [h3] at hyl; cases hyl
  have hgold : ∀ n y x, vget gd n = some y → y.link = some x → ∃ z, r.gate n = some z ∧
      z.link = some x ∧ (p.authority ≠ .station → x ≠ r.handleAt i) := by
    intro n y x hy hyl
    cases hz : vget r.gates n with
    | none => rw [hg0 n hz] at hy; cases hy
    | some z =>
      obtain ⟨y', hy', _, _, _, hcase⟩ := hg n z hz
      rw [hy] at hy'; cases hy'
      rcases hcase with ⟨h1, h2⟩ | ⟨_, _, h3⟩
      · exact ⟨z, hz, h1 ▸ hyl, fun ha hx => h2 ha (by rw [← h1, hyl, hx])⟩
      · rw [h3] at hyl; cases hyl
  refine ⟨fun n x w hx hxl => ?_, fun g x w hx hxl => ?_, fun g g' x x' w hx hx' hxl hxl' => ?_,
    fun j q hj ha => ?_, fun j q hj ha => ?_, fun j q hj ha => hl.own j q (hpost j q hj).2 ha⟩
  · rw [hpath] at hx
    obtain ⟨z, hz, hzl, hne⟩ := hpold n x w hx hxl
    obtain ⟨q, hq, hqa, hqp⟩ := hl.path n z w hz hzl
    refine ⟨q, hn w q (fun hw => ?_) hq, hqa, hqp⟩
    rw [hw, named_handleAt h] at hq
    rw [← Option.some.inj hq] at hqa
    exact hne (by rw [hqa]; simp) hw
  · rw [hgate] at hx
    obtain ⟨z, hz, hzl, hne⟩ := hgold g x w hx hxl
    obtain ⟨q, hq, hqa⟩ := hl.gate g z w hz hzl
    refine ⟨q, hn w q (fun hw => ?_) hq, hqa⟩
    rw [hw, named_handleAt h] at hq
    rw [← Option.some.inj hq] at hqa
    exact hne (by rw [hqa]; simp) hw
  · rw [hgate] at hx hx'
    obtain ⟨z, hz, hzl, _⟩ := hgold g x w hx hxl
    obtain ⟨z', hz', hzl', _⟩ := hgold g' x' w hx' hxl'
    exact hl.once g g' z z' w hz hz' hzl hzl'
  · obtain ⟨hji, hj⟩ := hpost j q hj
    obtain ⟨n, x, hx, hxl⟩ := hl.auto j q hj ha
    obtain ⟨y, hy, hcase⟩ := hp n x hx
    refine ⟨n, y, by rw [hpath]; exact hy, ?_⟩
    rw [hh]
    rcases hcase with ⟨h1, _⟩ | ⟨_, h2, _⟩
    · rw [h1]; exact hxl
    · rw [hxl] at h2
      exact absurd (congrArg Handle.slot (Option.some.inj h2)) hji
  · obtain ⟨hji, hj⟩ := hpost j q hj
    obtain ⟨n, x, hx, hxl⟩ := hl.field j q hj ha
    obtain ⟨y, hy, _, _, _, hcase⟩ := hg n x hx
    refine ⟨n, y, by rw [hgate]; exact hy, ?_⟩
    rw [hh]
    rcases hcase with ⟨h1, _⟩ | ⟨_, h2, _⟩
    · rw [h1]; exact hxl
    · rw [hxl] at h2
      exact absurd (congrArg Handle.slot (Option.some.inj h2)) hji

/-- What a newly taken slot leaves of the others. -/
theorem occupy_named (r : Road) (i : Fin 256) (p : Posting) (h : (r.slot i).posting = none)
    (x : Handle) (q : Posting) (hq : r.named x = some q) : (r.occupy i p).named x = some q := by
  rw [named_iff] at hq ⊢
  rw [occupy_slot]
  split
  · rename_i hi
    rw [← hi, h] at hq
    cases hq.2
  · exact hq

theorem occupy_posting (r : Road) (i : Fin 256) (p : Posting) (j : Fin 256) (q : Posting)
    (hq : ((r.occupy i p).slot j).posting = some q) : j = i ∧ q = p ∨
      j ≠ i ∧ (r.slot j).posting = some q ∧ (r.occupy i p).handleAt j = r.handleAt j := by
  rw [occupy_slot] at hq
  split at hq
  · rename_i hi
    exact .inl ⟨hi.symm, (Option.some.inj hq).symm⟩
  · rename_i hi
    refine .inr ⟨Ne.symm hi, hq, ?_⟩
    unfold Road.handleAt
    rw [occupy_slot, if_neg hi]

theorem occupy_new (r : Road) (i : Fin 256) (p : Posting) :
    (r.occupy i p).named ((r.occupy i p).handleAt i) = some p := by
  refine named_handleAt ?_
  rw [occupy_slot, if_pos rfl]

theorem link_station (r : Road) (i : Fin 256) (p : Posting) (h : (r.slot i).posting = none)
    (ha : p.authority = .station) (hl : r.LinkLaw) : (r.occupy i p).LinkLaw := by
  refine ⟨fun n x w hx hxl => ?_, fun g x w hx hxl => ?_, hl.once, fun j q hj hqa => ?_,
    fun j q hj hqa => ?_, fun j q hj hqa => ?_⟩
  · obtain ⟨q, hq, hqa⟩ := hl.path n x w hx hxl
    exact ⟨q, occupy_named r i p h w q hq, hqa⟩
  · obtain ⟨q, hq, hqa⟩ := hl.gate g x w hx hxl
    exact ⟨q, occupy_named r i p h w q hq, hqa⟩
  · rcases occupy_posting r i p j q hj with ⟨_, rfl⟩ | ⟨_, hj, hh⟩
    · rw [ha] at hqa; cases hqa
    · rw [hh]; exact hl.auto j q hj hqa
  · rcases occupy_posting r i p j q hj with ⟨_, rfl⟩ | ⟨_, hj, hh⟩
    · rw [ha] at hqa; cases hqa
    · rw [hh]; exact hl.field j q hj hqa
  · rcases occupy_posting r i p j q hj with ⟨_, rfl⟩ | ⟨_, hj, hh⟩
    · exact absurd ha hqa
    · exact hl.own j q hj hqa

theorem link_auto (r : Road) (i : Fin 256) (p : Posting) (n : Fin 24) (x : PathRec)
    (h : (r.slot i).posting = none) (ha : p.authority = .auto)
    (hk : p.kind = .closure ∧ p.expiry = none) (hp : p.path = some n.val) (hx : r.path n = some x) (hx0 : x.link = none) (hl : r.LinkLaw) :
    (Road.linkPath n ((r.occupy i p).handleAt i) (r.occupy i p)).LinkLaw := by
  rw [linkPath_frame n _ (r.occupy i p) x hx]
  have hpath : ∀ m y, vget (vset r.paths n (some { x with link := some ((r.occupy i p).handleAt i) })) m
      = some y → m = n ∧ y.link = some ((r.occupy i p).handleAt i) ∨ m ≠ n ∧ r.path m = some y := by
    intro m y hy
    rw [vget_vset] at hy
    split at hy
    · rename_i hm; exact .inl ⟨hm.symm, by rw [← Option.some.inj hy]⟩
    · rename_i hm; exact .inr ⟨Ne.symm hm, hy⟩
  refine ⟨fun m y w hy hyl => ?_, fun g y w hy hyl => ?_, hl.once, fun j q hj hqa => ?_,
    fun j q hj hqa => ?_, fun j q hj hqa => ?_⟩
  · rcases hpath m y hy with ⟨rfl, h1⟩ | ⟨_, h1⟩
    · rw [h1] at hyl
      cases hyl
      exact ⟨p, occupy_new r i p, ha, hp⟩
    · obtain ⟨q, hq, hqa⟩ := hl.path m y w h1 hyl
      exact ⟨q, occupy_named r i p h w q hq, hqa⟩
  · obtain ⟨q, hq, hqa⟩ := hl.gate g y w hy hyl
    exact ⟨q, occupy_named r i p h w q hq, hqa⟩
  · rcases occupy_posting r i p j q hj with ⟨rfl, rfl⟩ | ⟨_, hj, hh⟩
    · exact ⟨n, { x with link := some ((r.occupy j q).handleAt j) }, vget_vset_self _ _ _, rfl⟩
    · obtain ⟨m, y, hy, hyl⟩ := hl.auto j q hj hqa
      refine ⟨m, y, ?_, hyl.trans (congrArg some hh.symm)⟩
      refine (vget_vset_ne _ _ _ _ fun hm => ?_).trans hy
      subst hm
      rw [hx] at hy
      rw [← Option.some.inj hy, hx0] at hyl
      cases hyl
  · rcases occupy_posting r i p j q hj with ⟨_, rfl⟩ | ⟨_, hj, hh⟩
    · rw [ha] at hqa; cases hqa
    · obtain ⟨m, y, hy, hyl⟩ := hl.field j q hj hqa
      exact ⟨m, y, hy, hyl.trans (congrArg some hh.symm)⟩
  · rcases occupy_posting r i p j q hj with ⟨_, rfl⟩ | ⟨_, hj, hh⟩
    · exact ⟨hk.1, hk.2, fun hf => by rw [ha] at hf; cases hf⟩
    · exact hl.own j q hj hqa

theorem link_field (r : Road) (i : Fin 256) (p : Posting) (g : Fin 16) (x : GateRec)
    (h : (r.slot i).posting = none) (ha : p.authority = .field)
    (hk : p.kind = .closure ∧ p.expiry = none) (hp : p.pin = none) (hx : r.gate g = some x) (hx0 : x.link = none) (hl : r.LinkLaw) :
    (Road.linkGate g ((r.occupy i p).handleAt i) (r.occupy i p)).LinkLaw := by
  rw [linkGate_frame g _ (r.occupy i p) x hx]
  have hgate : ∀ m y, vget (vset r.gates g (some { x with link := some ((r.occupy i p).handleAt i) })) m
      = some y → m = g ∧ y.link = some ((r.occupy i p).handleAt i) ∨ m ≠ g ∧ r.gate m = some y := by
    intro m y hy
    rw [vget_vset] at hy
    split at hy
    · rename_i hm; exact .inl ⟨hm.symm, by rw [← Option.some.inj hy]⟩
    · rename_i hm; exact .inr ⟨Ne.symm hm, hy⟩
  -- no gate linked the new handle before
  have hfresh : ∀ m y, r.gate m = some y → y.link ≠ some ((r.occupy i p).handleAt i) := by
    intro m y hy hyl
    obtain ⟨q, hq, _⟩ := hl.gate m y _ hy hyl
    have := (named_iff.mp hq).2
    rw [show ((r.occupy i p).handleAt i).slot = i from rfl, h] at this
    cases this
  refine ⟨fun m y w hy hyl => ?_, fun m y w hy hyl => ?_, fun m m' y y' w hy hy' hyl hyl' => ?_,
    fun j q hj hqa => ?_, fun j q hj hqa => ?_, fun j q hj hqa => ?_⟩
  · obtain ⟨q, hq, hqa⟩ := hl.path m y w hy hyl
    exact ⟨q, occupy_named r i p h w q hq, hqa⟩
  · rcases hgate m y hy with ⟨rfl, h1⟩ | ⟨_, h1⟩
    · rw [h1] at hyl
      cases hyl
      exact ⟨p, occupy_new r i p, ha⟩
    · obtain ⟨q, hq, hqa⟩ := hl.gate m y w h1 hyl
      exact ⟨q, occupy_named r i p h w q hq, hqa⟩
  · rcases hgate m y hy with ⟨hm, h1⟩ | ⟨hm, h1⟩ <;> rcases hgate m' y' hy' with ⟨hm', h1'⟩ | ⟨hm', h1'⟩
    · rw [hm, hm']
    · rw [h1] at hyl; cases hyl
      exact absurd hyl' (hfresh m' y' h1')
    · rw [h1'] at hyl'; cases hyl'
      exact absurd hyl (hfresh m y h1)
    · exact hl.once m m' y y' w h1 h1' hyl hyl'
  · rcases occupy_posting r i p j q hj with ⟨_, rfl⟩ | ⟨_, hj, hh⟩
    · rw [ha] at hqa; cases hqa
    · obtain ⟨m, y, hy, hyl⟩ := hl.auto j q hj hqa
      exact ⟨m, y, hy, hyl.trans (congrArg some hh.symm)⟩
  · rcases occupy_posting r i p j q hj with ⟨rfl, rfl⟩ | ⟨_, hj, hh⟩
    · exact ⟨g, { x with link := some ((r.occupy j q).handleAt j) }, vget_vset_self _ _ _, rfl⟩
    · obtain ⟨m, y, hy, hyl⟩ := hl.field j q hj hqa
      refine ⟨m, y, ?_, hyl.trans (congrArg some hh.symm)⟩
      refine (vget_vset_ne _ _ _ _ fun hm => ?_).trans hy
      subst hm
      rw [hx] at hy
      rw [← Option.some.inj hy, hx0] at hyl
      cases hyl
  · rcases occupy_posting r i p j q hj with ⟨_, rfl⟩ | ⟨_, hj, hh⟩
    · exact ⟨hk.1, hk.2, fun _ => hp⟩
    · exact hl.own j q hj hqa

/-- What a rewriting leaves of what handles name. -/
theorem rewritten_named {r : Road} {i : Fin 256} {p q : Posting} (v : Byte) (fl : Nat)
    (d : Vector (List CopySlot) 48) (h : (r.slot i).posting = some p) (x : Handle) :
    (r.rewritten i q v fl d).named x =
      if x = r.handleAt i then some q else r.named x := by
  unfold Road.named
  by_cases hx : x.slot = i
  · subst hx
    rw [rewritten_slot_self]
    by_cases hg : (r.slot x.slot).gen = x.gen
    · rw [if_pos (show _ = _ from hg), if_pos]
      cases x
      simp only [Road.handleAt] at *
      rw [hg]
    · rw [if_neg (show ¬ _ = _ from hg), if_neg hg, if_neg]
      intro hxx
      exact hg (congrArg Handle.gen hxx).symm
  · rw [rewritten_slot_ne r i q v fl d _ hx, if_neg fun hxx => hx (congrArg Handle.slot hxx)]

theorem rewritten_handle (r : Road) (i : Fin 256) (q : Posting) (v : Byte) (fl : Nat)
    (d : Vector (List CopySlot) 48) (j : Fin 256) :
    (r.rewritten i q v fl d).handleAt j = r.handleAt j := by
  unfold Road.handleAt
  by_cases hj : j = i
  · subst hj; rw [rewritten_slot_self]
  · rw [rewritten_slot_ne r i q v fl d j hj]

theorem link_rewrite {r : Road} {i : Fin 256} {p q : Posting} {v : Byte} {fl : Nat}
    {d : Vector (List CopySlot) 48} (h : Rewrite e r i p q v fl d) (hl : r.LinkLaw) :
    (r.rewritten i q v fl d).LinkLaw := by
  have hn := fun x => rewritten_named (q := q) v fl d h.was x
  have hh := rewritten_handle r i q v fl d
  have hpost : ∀ j q', ((r.rewritten i q v fl d).slot j).posting = some q' →
      j = i ∧ q' = q ∨ (r.slot j).posting = some q' := by
    intro j q' hj
    by_cases hji : j = i
    · subst hji
      rw [rewritten_slot_self] at hj
      exact .inl ⟨rfl, (Option.some.inj hj).symm⟩
    · rw [rewritten_slot_ne r i q v fl d j hji] at hj
      exact .inr hj
  have hname : ∀ x p', r.named x = some p' → ∃ q', (r.rewritten i q v fl d).named x = some q' ∧
      q'.authority = p'.authority ∧ q'.path = p'.path := by
    intro x p' hx
    rw [hn]
    split
    · rename_i hxx
      rw [hxx, named_handleAt h.was] at hx
      rw [← Option.some.inj hx]
      exact ⟨q, rfl, h.authority, h.path⟩
    · exact ⟨p', hx, rfl, rfl⟩
  refine ⟨fun n x w hx hxl => ?_, fun g x w hx hxl => ?_, hl.once, fun j q' hj ha => ?_,
    fun j q' hj ha => ?_, fun j q' hj ha => ?_⟩
  · obtain ⟨p', hp', ha, hpp⟩ := hl.path n x w hx hxl
    obtain ⟨q', hq', hqa, hqp⟩ := hname w p' hp'
    exact ⟨q', hq', hqa.trans ha, hqp.trans hpp⟩
  · obtain ⟨p', hp', ha⟩ := hl.gate g x w hx hxl
    obtain ⟨q', hq', hqa, _⟩ := hname w p' hp'
    exact ⟨q', hq', hqa.trans ha⟩
  · rw [hh]
    rcases hpost j q' hj with ⟨rfl, rfl⟩ | hj
    · exact hl.auto j p h.was (h.authority ▸ ha)
    · exact hl.auto j q' hj ha
  · rw [hh]
    rcases hpost j q' hj with ⟨rfl, rfl⟩ | hj
    · exact hl.field j p h.was (h.authority ▸ ha)
    · exact hl.field j q' hj ha
  · rcases hpost j q' hj with ⟨rfl, rfl⟩ | hj
    · have ha' : p.authority ≠ .station := h.authority ▸ ha
      have h1 := h.own hl ha'
      have h2 := hl.own j p h.was ha'
      exact ⟨h1.1.trans h2.1, h1.2.trans h2.2.1,
        fun hf => h.fieldPin hl (h.authority ▸ hf)⟩
    · exact hl.own j q' hj ha

theorem link_move {r r' : Road} (h : r.Move e r') (hl : r.LinkLaw) : r'.LinkLaw := by
  cases h with
  | records pd gd hp hg =>
    exact link_records (r := r) (fun _ => rfl) hp (fun g => map_kept_link (hg g)) hl
  | free i p h hs => exact link_free r i p h hl
  | station i p h ha ht hf hd => exact link_station r i p h ha hl
  | auto i p n x h ha hk ht hpp hx hx0 => exact link_auto r i p n x h ha hk hpp hx (hx0 hl) hl
  | field i p g x h ha hk ht hpp hx hx0 => exact link_field r i p g x h ha hk hpp hx (hx0 hl) hl
  | rewrite i p q v fl d h => exact link_rewrite h hl
  | shut i y hy hs =>
    obtain ⟨gd, ln, fl', he, hg, _⟩ := order_frame .toClose (sectionGates e i) (r.enter i .shutting)
    rw [he]
    exact link_records (r := r) (fun _ => rfl) (fun _ => rfl) (fun g => map_place_link (hg g)) hl
  | _ => exact ⟨hl.path, hl.gate, hl.once, hl.auto, hl.field, hl.own⟩

theorem hasDanger_false {r : Road} {path : Option Nat} (h : r.hasDanger path = false) (j : Fin 256)
    (q : Posting) (hq : (r.slot j).posting = some q) (hk : q.kind = .danger) (hp : q.path = path) :
    q.state = .retiring := by
  unfold Road.hasDanger at h
  rw [List.any_eq_false] at h
  have hm : (j, q) ∈ r.postings := by
    unfold Road.postings
    exact List.mem_filterMap.mpr ⟨j, List.mem_finRange j, by simp [hq]⟩
  have := h _ hm
  simpa [hk, hp] using this

theorem danger_slots {r r' : Road} (hd : r.DangerLaw)
    (hs : ∀ j q, (r'.slot j).posting = some q → q.kind = .danger → q.state ≠ .retiring →
      ∃ p, (r.slot j).posting = some p ∧ p.kind = .danger ∧ p.path = q.path ∧ p.state ≠ .retiring) :
    r'.DangerLaw := by
  intro i j p q hi hj hpk hqk hpq hps hqs
  obtain ⟨p', hi', h1, h2, h3⟩ := hs i p hi hpk hps
  obtain ⟨q', hj', h4, h5, h6⟩ := hs j q hj hqk hqs
  exact hd i j p' q' hi' hj' h1 h4 (by rw [h2, h5, hpq]) h3 h6

theorem danger_move {r r' : Road} (h : r.Move e r') (hl : r.LinkLaw) (hd : r.DangerLaw) :
    r'.DangerLaw := by
  have own : ∀ i p, p.kind = .closure → (r.occupy i p).DangerLaw := by
    intro i p hk
    refine danger_slots hd fun j q hj hqk hqs => ?_
    rcases occupy_posting r i p j q hj with ⟨_, rfl⟩ | ⟨_, hj, _⟩
    · rw [hk] at hqk; cases hqk
    · exact ⟨q, hj, hqk, rfl, hqs⟩
  cases h with
  | free i p h hs =>
    refine danger_slots hd fun j q hj hqk hqs => ?_
    rw [free_slot r i p h] at hj
    split at hj
    · cases hj
    · exact ⟨q, hj, hqk, rfl, hqs⟩
  | station i p h ha ht hf hpd =>
    intro j k q q' hj hk hqk hqk' hpp hqs hqs'
    rcases occupy_posting r i p j q hj with ⟨h1, h2⟩ | ⟨_, hj', _⟩ <;>
      rcases occupy_posting r i p k q' hk with ⟨h3, h4⟩ | ⟨_, hk', _⟩
    · rw [h1, h3]
    · subst h2
      exact absurd (hasDanger_false (hpd hqk) k q' hk' hqk' hpp.symm) hqs'
    · subst h4
      exact absurd (hasDanger_false (hpd hqk') j q hj' hqk hpp) hqs
    · exact hd j k q q' hj' hk' hqk hqk' hpp hqs hqs'
  | auto i p n x h ha hk ht hpp hx hx0 =>
    rw [linkPath_frame n _ (r.occupy i p) x hx]; exact own i p hk.1
  | field i p g x h ha hk ht hpp hx hx0 =>
    rw [linkGate_frame g _ (r.occupy i p) x hx]; exact own i p hk.1
  | rewrite i p q v fl d h =>
    refine danger_slots hd fun j q' hj hqk hqs => ?_
    by_cases hji : j = i
    · subst hji
      rw [rewritten_slot_self] at hj
      cases hj
      refine ⟨p, h.was, h.danger.mp hqk, h.path.symm, fun hps => ?_⟩
      have ha := h.revive hl hqs hps
      have := (hl.own j p h.was ha).1
      rw [h.danger.mp hqk] at this; cases this
    · rw [rewritten_slot_ne r i q v fl d j hji] at hj
      exact ⟨q', hj, hqk, rfl, hqs⟩
  | shut i y hy hs =>
    obtain ⟨gd, ln, fl', he, hg, _⟩ := order_frame .toClose (sectionGates e i) (r.enter i .shutting)
    rw [he]; exact hd
  | _ => exact hd

/-! ### The copy directory -/

theorem marked_handle (h : Handle) (o : Bool) (c : CopySlot) :
    (CopySlot.marked h o c).handle? = c.handle? := by
  unfold CopySlot.marked
  split
  · cases c <;> cases o <;> rfl
  · rfl

theorem mark_dirOf (r : Road) (h : Handle) (o : Bool) (u : UnitId) :
    (r.markCopies h o).dirOf u = (r.dirOf u).map (CopySlot.marked h o) := by
  unfold Road.markCopies Road.dirOf
  simp

theorem copies_marked (r : Road) (h : Handle) (o : Bool) (u : UnitId) :
    handlesOf ((r.markCopies h o).dirOf u) = handlesOf (r.dirOf u) := by
  rw [mark_dirOf]
  unfold handlesOf
  rw [List.filterMap_map]
  congr 1
  funext c
  exact marked_handle h o c

theorem copies_move {r r' : Road} (h : r.Move e r') (hc : r.CopyLaw) : r'.CopyLaw := by
  cases h with
  | dir d hd hcc => exact fun u => hd (unitIdx u) (hc u)
  | free i p h hs =>
    obtain ⟨pd, gd, he, _⟩ := free_frame r i p h
    rw [he]; exact hc
  | auto i p n x h ha hk ht hpp hx hx0 => rw [linkPath_frame n _ (r.occupy i p) x hx]; exact hc
  | field i p g x h ha hk ht hpp hx hx0 => rw [linkGate_frame g _ (r.occupy i p) x hx]; exact hc
  | rewrite i p q v fl d h =>
    intro u
    show (handlesOf (vget d (unitIdx u))).Nodup
    rcases h.marked with ⟨hd, _⟩ | ⟨o, hd⟩
    · rw [hd]; exact hc u
    · rw [hd]
      show (handlesOf ((r.markCopies (r.handleAt i) o).dirOf u)).Nodup
      rw [copies_marked]; exact hc u
  | shut i y hy hs =>
    obtain ⟨gd, ln, fl', he, hg, _⟩ := order_frame .toClose (sectionGates e i) (r.enter i .shutting)
    rw [he]; exact hc
  | _ => exact hc

theorem current_slots {r r' : Road} (hc : r.CurrentLaw) (hd : ∀ u, r'.dirOf u = r.dirOf u)
    (hs : ∀ x, r.namedState x = some .active →
      r'.namedState x = some .active ∧ r'.version x = r.version x) : r'.CurrentLaw := by
  intro u h v hm
  rw [hd] at hm
  obtain ⟨h1, h2⟩ := hc u h v hm
  obtain ⟨h3, h4⟩ := hs h h1
  exact ⟨h3, h4.trans h2⟩

theorem namedState_iff {r : Road} {x : Handle} {st : PState} :
    r.namedState x = some st ↔ ∃ p, r.named x = some p ∧ p.state = st := by
  unfold Road.namedState
  rw [Option.map_eq_some_iff]

theorem current_occupy (r : Road) (i : Fin 256) (p : Posting) (h : (r.slot i).posting = none)
    (hc : r.CurrentLaw) : (r.occupy i p).CurrentLaw := by
  refine current_slots hc (fun _ => rfl) fun x hx => ?_
  obtain ⟨q, hq, hqs⟩ := namedState_iff.mp hx
  refine ⟨namedState_iff.mpr ⟨q, occupy_named r i p h x q hq, hqs⟩, ?_⟩
  unfold Road.version
  rw [occupy_slot, if_neg]
  rintro rfl
  have := (named_iff.mp hq).2
  rw [h] at this; cases this

theorem current_move {r r' : Road} (h : r.Move e r') (hc : r.CurrentLaw) : r'.CurrentLaw := by
  cases h with
  | dir d hd hcc =>
    intro u h v hm
    rcases hcc (unitIdx u) h v hm with hm | hm
    · exact hc u h v hm
    · exact hm
  | free i p h hs =>
    have hdir : ∀ u, (r.free i).dirOf u = r.dirOf u := fun u => by
      obtain ⟨pd, gd, he, _⟩ := free_frame r i p h
      rw [he]; rfl
    refine current_slots hc hdir fun x hx => ?_
    obtain ⟨q, hq, hqs⟩ := namedState_iff.mp hx
    have hne : i ≠ x.slot := by
      rintro rfl
      rw [(named_iff.mp hq).2] at h
      exact hs (by rw [← Option.some.inj h]; exact hqs)
    refine ⟨namedState_iff.mpr ⟨q, ?_, hqs⟩, ?_⟩
    · rw [named_iff] at hq ⊢
      rw [free_slot r i p h, if_neg hne]; exact hq
    · unfold Road.version
      rw [free_slot r i p h, if_neg hne]
  | station i p h ha ht hf hd => exact current_occupy r i p h hc
  | auto i p n x h ha hk ht hpp hx hx0 =>
    rw [linkPath_frame n _ (r.occupy i p) x hx]; exact current_occupy r i p h hc
  | field i p g x h ha hk ht hpp hx hx0 =>
    rw [linkGate_frame g _ (r.occupy i p) x hx]; exact current_occupy r i p h hc
  | rewrite i p q v fl d h =>
    intro u x w hm
    have hm' : CopySlot.current x w ∈ r.dirOf u ∧
        (x = r.handleAt i → p.state = .active → q.state = .active ∧ v = (r.slot i).version) := by
      rcases h.marked with ⟨hd, hk⟩ | ⟨o, hd⟩
      · have hm : CopySlot.current x w ∈ vget d (unitIdx u) := hm
        rw [hd] at hm
        exact ⟨hm, fun _ => hk⟩
      · have hm : CopySlot.current x w ∈ vget d (unitIdx u) := hm
        rw [hd] at hm
        have hm : CopySlot.current x w ∈ (r.markCopies (r.handleAt i) o).dirOf u := hm
        rw [mark_dirOf] at hm
        obtain ⟨c, hc', hcm⟩ := List.mem_map.mp hm
        unfold CopySlot.marked at hcm
        split at hcm
        · rename_i hh
          split at hcm
          · cases hcm
          · split at hcm <;> cases hcm
          · rename_i h1 _
            exact absurd hcm (h1 x w)
        · rename_i hh
          subst hcm
          refine ⟨hc', fun hx => absurd (by rw [hx]; rfl) hh⟩
    obtain ⟨h1, h2⟩ := hc u x w hm'.1
    obtain ⟨p', hp', hps⟩ := namedState_iff.mp h1
    rw [namedState_iff, rewritten_named (q := q) v fl d h.was x]
    by_cases hx : x = r.handleAt i
    · rw [if_pos hx]
      rw [hx, named_handleAt h.was] at hp'
      rw [← Option.some.inj hp'] at hps
      obtain ⟨h3, h4⟩ := hm'.2 hx hps
      refine ⟨⟨q, rfl, h3⟩, ?_⟩
      rw [← h2, hx]
      unfold Road.version
      rw [show (r.handleAt i).slot = i from rfl, rewritten_slot_self]
      exact h4
    · rw [if_neg hx]
      refine ⟨⟨p', hp', hps⟩, ?_⟩
      rw [← h2]
      unfold Road.version
      rw [rewritten_slot_ne r i q v fl d]
      intro hs
      refine hx ?_
      rw [← hs]; exact named_eq_handleAt hp'
  | shut i y hy hs =>
    obtain ⟨gd, ln, fl', he, hg, _⟩ := order_frame .toClose (sectionGates e i) (r.enter i .shutting)
    rw [he]; exact hc
  | _ => exact hc

/-! ### The distribution queue -/

theorem ahead_append_marker {l : List Entry} : aheadOfMarker (.marker :: l) = [] := rfl

theorem ahead_cons {en : Entry} {l : List Entry} (h : en ≠ .marker) :
    aheadOfMarker (en :: l) = en :: aheadOfMarker l := by
  unfold aheadOfMarker
  rw [List.takeWhile_cons_of_pos (by simpa using h)]

theorem behind_cons {en : Entry} {l : List Entry} (h : en ≠ .marker) :
    behindMarker (en :: l) = behindMarker l := by
  unfold behindMarker
  rw [ahead_cons h]; rfl

theorem marker_not_ahead (l : List Entry) : Entry.marker ∉ aheadOfMarker l := by
  intro h
  have := List.mem_takeWhile_imp h
  simp at this

/-- A queue with a marker is what stands ahead of it, the marker, and what stands behind it. -/
theorem split_marker : ∀ {l : List Entry}, Entry.marker ∈ l →
    l = aheadOfMarker l ++ .marker :: behindMarker l
  | a :: l, h => by
    by_cases ha : a = .marker
    · subst ha; rfl
    · rw [ahead_cons ha, behind_cons ha, List.cons_append]
      rcases List.mem_cons.mp h with h | h
      · exact absurd h.symm ha
      · rw [← split_marker h]

theorem split_none {l : List Entry} (h : Entry.marker ∉ l) :
    aheadOfMarker l = l ∧ behindMarker l = [] := by
  have : aheadOfMarker l = l := by
    unfold aheadOfMarker
    rw [List.takeWhile_eq_self_iff]
    intro x hx
    simp only [bne_iff_ne, ne_eq]
    rintro rfl; exact h hx
  exact ⟨this, by unfold behindMarker; rw [this]; simp⟩

/-- Splitting at a marker that stands after entries that are none. -/
theorem split_at {a b : List Entry} (ha : Entry.marker ∉ a) :
    aheadOfMarker (a ++ .marker :: b) = a ∧ behindMarker (a ++ .marker :: b) = b := by
  induction a with
  | nil => exact ⟨rfl, rfl⟩
  | cons x a ih =>
    simp only [List.mem_cons, not_or] at ha
    obtain ⟨h1, h2⟩ := ih ha.2
    have hx : x ≠ .marker := fun h => ha.1 h.symm
    rw [List.cons_append, ahead_cons hx, behind_cons hx, h1, h2]
    exact ⟨rfl, rfl⟩

/-- The entries an appended one may coalesce into: those behind the marker, or all but the head where
there is none. -/
theorem coalesces_false {r : Road} {en : Entry} (h : r.coalesces en = false)
    (hq : r.QueueLaw) :
    en ∉ behindMarker r.queue ∧ (Entry.marker ∉ r.queue → en ∉ r.queue.tail) := by
  unfold Road.coalesces at h
  have hmem : en ∉ r.queue.tail.reverse.takeWhile (· != .marker) := by
    intro hm
    rw [List.contains_iff_mem.mpr hm] at h
    cases h
  constructor
  · intro hb
    have hmk : Entry.marker ∈ r.queue := by
      by_contra hn
      rw [(split_none hn).2] at hb; cases hb
    have hs := split_marker hmk
    have hsingle := hq.single
    generalize hB : behindMarker r.queue = B at hs hb hsingle
    generalize hA : aheadOfMarker r.queue = A at hs
    apply hmem
    rw [hs]
    cases A with
    | nil =>
      rw [List.nil_append, List.tail_cons]
      rw [List.takeWhile_eq_self_iff.mpr]
      · exact List.mem_reverse.mpr hb
      · intro x hx
        simp only [bne_iff_ne, ne_eq]
        rintro rfl; exact hsingle (List.mem_reverse.mp hx)
    | cons a A =>
      rw [List.cons_append, List.tail_cons, List.reverse_append, List.reverse_cons, List.append_assoc,
        List.takeWhile_append_of_pos]
      · exact List.mem_append_left _ (List.mem_reverse.mpr hb)
      · intro x hx
        simp only [bne_iff_ne, ne_eq]
        rintro rfl; exact hsingle (List.mem_reverse.mp hx)
  · intro hn ht
    apply hmem
    rw [List.takeWhile_eq_self_iff.mpr]
    · exact List.mem_reverse.mpr ht
    · intro x hx
      simp only [bne_iff_ne, ne_eq]
      rintro rfl
      exact hn (List.mem_of_mem_tail (List.mem_reverse.mp hx))

theorem queue_tail {r : Road} (hq : r.QueueLaw) {en : Entry} {q : List Entry} {s : Option Settle}
    (h : r.queue = en :: q) (hm : en ≠ .marker) (hs : s = r.settle) {r' : Road}
    (hr : r'.queue = q) (hrs : r'.settle = s) : r'.QueueLaw := by
  obtain ⟨h1, h2, h3, h4⟩ := hq
  rw [h] at h1 h2 h3 h4
  rw [behind_cons hm] at h2 h4
  rw [ahead_cons hm, List.tail_cons] at h3
  refine ⟨fun hmk => ?_, by rw [hr]; exact h2, by rw [hr]; exact h3.tail, by rw [hr]; exact h4⟩
  rw [hrs, hs]
  rw [hr] at hmk
  exact h1 (List.mem_cons_of_mem _ hmk)

theorem queue_same {r r' : Road} (hq : r.QueueLaw) (h : r'.queue = r.queue)
    (hs : r'.settle = r.settle) : r'.QueueLaw := by
  refine ⟨?_, ?_, ?_, ?_⟩ <;> rw [h]
  · rw [hs]; exact hq.waits
  · exact hq.single
  · exact hq.ahead
  · exact hq.behind

theorem queue_push {r : Road} (hq : r.QueueLaw) {en : Entry} (hm : en ≠ .marker)
    (hc : r.coalesces en = false) : Road.QueueLaw { r with queue := r.queue ++ [en] } := by
  obtain ⟨hb, ht⟩ := coalesces_false hc hq
  by_cases hmk : Entry.marker ∈ r.queue
  · have hs := split_marker hmk
    have hA := marker_not_ahead r.queue
    have hnew : r.queue ++ [en] = aheadOfMarker r.queue ++ .marker :: (behindMarker r.queue ++ [en]) := by
      conv_lhs => rw [hs]
      simp
    obtain ⟨h1, h2⟩ := split_at (b := behindMarker r.queue ++ [en]) hA
    refine ⟨fun _ => hq.waits hmk, ?_, ?_, ?_⟩ <;> show _ <;> simp only [hnew, h1, h2]
    · intro hmem
      rcases List.mem_append.mp hmem with h | h
      · exact hq.single h
      · exact hm (List.mem_singleton.mp h).symm
    · exact hq.ahead
    · exact List.nodup_append.mpr ⟨hq.behind, List.nodup_singleton _, by
        intro a ha b hbb
        rw [List.mem_singleton.mp hbb]
        rintro rfl; exact hb ha⟩
  · have hmk' : Entry.marker ∉ r.queue ++ [en] := by
      intro h
      rcases List.mem_append.mp h with h | h
      · exact hmk h
      · exact hm (List.mem_singleton.mp h).symm
    obtain ⟨h1, h2⟩ := split_none hmk'
    refine ⟨fun h => absurd h hmk', ?_, ?_, ?_⟩ <;> show _ <;> simp only [h1, h2]
    · exact List.not_mem_nil
    · have hold := hq.ahead
      rw [(split_none hmk).1] at hold
      have hen := ht hmk
      cases hr : r.queue with
      | nil => exact List.nodup_nil
      | cons a l =>
        rw [hr] at hold hen
        rw [List.cons_append, List.tail_cons]
        exact List.nodup_append.mpr ⟨hold, List.nodup_singleton _, by
          intro x hx y hy
          rw [List.mem_singleton.mp hy]
          rintro rfl; exact hen hx⟩
    · exact List.nodup_nil

/-- R96: with the marker gone, no not-yet-started entry stands twice. -/
theorem withoutMarker_spec {r : Road} (hq : r.QueueLaw) :
    Entry.marker ∉ withoutMarker r.queue ∧ (withoutMarker r.queue).tail.Nodup := by
  have hb : r.queue.drop ((aheadOfMarker r.queue).length + 1) = behindMarker r.queue := rfl
  unfold withoutMarker
  simp only [hb]
  have hA := marker_not_ahead r.queue
  have hS := hq.single
  have hN := hq.ahead
  have hB := hq.behind
  generalize aheadOfMarker r.queue = A at hA hN ⊢
  generalize behindMarker r.queue = B at hS hB ⊢
  constructor
  · intro h
    rcases List.mem_append.mp h with h | h
    · exact hA h
    · exact hS (List.mem_filter.mp h).1
  · have hf : (B.filter fun en => !A.tail.contains en).Nodup := hB.filter _
    cases A with
    | nil => exact hf.tail
    | cons a A =>
      rw [List.cons_append, List.tail_cons]
      refine List.nodup_append.mpr ⟨hN, hf, fun x hx y hy hxy => ?_⟩
      subst hxy
      have := (List.mem_filter.mp hy).2
      simp at this
      exact this hx

theorem queue_move {r r' : Road} (h : r.Move e r') (hq : r.QueueLaw) : r'.QueueLaw := by
  cases h with
  | push en hm hc => exact queue_push hq hm hc
  | pop en q h hm => exact queue_tail hq h hm rfl rfl rfl
  | popMarker q h =>
    obtain ⟨h1, h2, h3, h4⟩ := hq
    rw [h] at h2 h3 h4
    have hb : behindMarker (Entry.marker :: q) = q := rfl
    rw [hb] at h2 h4
    obtain ⟨h5, h6⟩ := split_none h2
    refine ⟨fun h => absurd h h2, ?_, ?_, ?_⟩ <;> show _ <;> simp only [h5, h6]
    · exact List.not_mem_nil
    · exact h4.tail
    · exact List.nodup_nil
  | dropMarker =>
    obtain ⟨h1, h2⟩ := withoutMarker_spec hq
    obtain ⟨h5, h6⟩ := split_none h1
    refine ⟨fun h => absurd h h1, ?_, ?_, ?_⟩ <;> show _ <;> simp only [h5, h6]
    · exact List.not_mem_nil
    · exact h2
    · exact List.nodup_nil
  | noMarker h =>
    obtain ⟨h5, h6⟩ := split_none h
    exact ⟨fun hm => absurd hm h, hq.single, hq.ahead, hq.behind⟩
  | free i p h hs =>
    obtain ⟨pd, gd, he, _⟩ := free_frame r i p h
    rw [he]; exact queue_same hq rfl rfl
  | auto i p n x h ha hk ht hpp hx hx0 =>
    rw [linkPath_frame n _ (r.occupy i p) x hx]; exact queue_same hq rfl rfl
  | field i p g x h ha hk ht hpp hx hx0 =>
    rw [linkGate_frame g _ (r.occupy i p) x hx]; exact queue_same hq rfl rfl
  | shut i y hy hs =>
    obtain ⟨gd, ln, fl', he, hg, _⟩ := order_frame .toClose (sectionGates e i) (r.enter i .shutting)
    rw [he]; exact queue_same hq rfl rfl
  | _ => exact queue_same hq rfl rfl

/-! ### Sections, gates and the plan -/

/-- An order to the gates of a section gives the section and its gates the new standing order. -/
theorem standing_order (r : Road) (i : Fin 8) (x : SectionRec) (d : Order)
    (hu : ∀ i j g, g ∈ sectionGates e i → g ∈ sectionGates e j → i = j)
    (hx : x.state.standing = d) (fl : BitVec 14) (hs : r.StandingLaw e) :
    Road.StandingLaw e ((sectionGates e i).foldl (Road.setStanding d)
      { r.setSec i x with flags := fl }) := by
  obtain ⟨gd, ln, fl', he, hp, h1, h2⟩ := order_frame d (sectionGates e i) { r.setSec i x with flags := fl }
  rw [he]
  intro j y g z hy hg hz
  have hz2 : vget gd g = some z := hz
  have hy2 : (r.setSec i x).sec j = some y := hy
  rw [sec_setSec] at hy2
  split at hy2
  · rename_i hij
    subst hij
    rw [← Option.some.inj hy2, hx]
    exact h2 g hg z hz2
  · rename_i hij
    have hng : g ∉ sectionGates e i := fun h => hij (hu i j g h hg)
    rw [h1 g hng] at hz2
    exact hs j y g z hy2 hg hz2

theorem standing_gates {r r' : Road} (hs : r.StandingLaw e) (hsec : ∀ i, r'.sec i = r.sec i)
    (hg : ∀ g z, r'.gate g = some z → ∃ y, r.gate g = some y ∧ y.standing = z.standing) :
    r'.StandingLaw e := by
  intro i x g z hx hgi hz
  obtain ⟨y, hy, hyz⟩ := hg g z hz
  rw [hsec] at hx
  rw [← hyz]; exact hs i x g y hx hgi hy

theorem standing_move {r r' : Road} (h : r.Move e r')
    (hu : ∀ i j g, g ∈ sectionGates e i → g ∈ sectionGates e j → i = j) (hs : r.StandingLaw e) :
    r'.StandingLaw e := by
  cases h with
  | records pd gd hp hg =>
    refine standing_gates (r := r) hs (fun _ => rfl) fun g z hz => ?_
    obtain ⟨y, hy, hyk⟩ := map_link (hg g) hz
    exact ⟨y, hy, congrArg (fun k => k.2.2.1) hyk⟩
  | free i p h hs' =>
    obtain ⟨pd, gd, he, _, _, hg, hg0⟩ := free_frame r i p h
    rw [he]
    refine standing_gates (r := r) hs (fun _ => rfl) fun g z hz => ?_
    have hz : vget gd g = some z := hz
    cases hy : vget r.gates g with
    | none => rw [hg0 g hy] at hz; cases hz
    | some y =>
      obtain ⟨w, hw, _, _, hst, _⟩ := hg g y hy
      rw [hz] at hw; cases hw
      exact ⟨y, hy, hst.symm⟩
  | auto i p n x h ha hk ht hpp hx hx0 =>
    rw [linkPath_frame n _ (r.occupy i p) x hx]; exact hs
  | field i p g x h ha hk ht hpp hx hx0 =>
    rw [linkGate_frame g _ (r.occupy i p) x hx]
    refine standing_gates (r := r) hs (fun _ => rfl) fun g' z hz => ?_
    have hz2 : vget (vset r.gates g _) g' = some z := hz
    rw [vget_vset] at hz2
    split at hz2
    · rename_i hgg
      subst hgg
      exact ⟨x, hx, by rw [← Option.some.inj hz2]⟩
    · exact ⟨z, hz2, rfl⟩
  | sec i x y hy ho hsw hn =>
    intro j w g z hw hg hz
    rw [sec_setSec] at hw
    split at hw
    · rename_i hij
      subst hij
      obtain ⟨v, hv, hvs⟩ := Option.map_eq_some_iff.mp hy
      rw [← Option.some.inj hw, ho, ← hvs]
      exact hs i v g z hv hg hz
    · exact hs j w g z hw hg hz
  | shut i y hy hsw => exact standing_order r i _ .toClose hu rfl _ hs
  | _ => exact hs

/-- The records the plan calls for, as the moves see them. -/
structure SameRecords (r r' : Road) : Prop where
  sections : ∀ i, (r'.sec i).isSome = (r.sec i).isSome
  gates    : ∀ g, (r'.gate g).map GateRec.planned = (r.gate g).map GateRec.planned
  paths    : ∀ n, (r'.path n).isSome = (r.path n).isSome

theorem map_kept_place {a b : Option GateRec} (h : a.map GateRec.kept = b.map GateRec.kept) :
    a.map GateRec.planned = b.map GateRec.planned := by
  cases a <;> cases b <;> simp_all [GateRec.kept, GateRec.planned]

theorem map_place_place {a b : Option GateRec} (h : a.map GateRec.place = b.map GateRec.place) :
    a.map GateRec.planned = b.map GateRec.planned := by
  cases a <;> cases b <;> simp_all [GateRec.place, GateRec.planned]

theorem isSome_map_eq {α β : Type} {f : α → β} {a b : Option α} (h : a.map f = b.map f) :
    a.isSome = b.isSome := by
  cases a <;> cases b <;> simp_all

theorem isSome_setSec (r : Road) (i : Fin 8) (x : SectionRec) (y : SecState)
    (hy : r.secState i = some y) (j : Fin 8) : ((r.setSec i x).sec j).isSome = (r.sec j).isSome := by
  rw [sec_setSec]
  split
  · rename_i hij
    subst hij
    obtain ⟨v, hv, _⟩ := Option.map_eq_some_iff.mp hy
    rw [hv]; rfl
  · rfl

theorem same_order (r : Road) (i : Fin 8) (x : SectionRec) (y : SecState) (d : Order)
    (hy : r.secState i = some y) (fl : BitVec 14) : SameRecords r
      ((sectionGates e i).foldl (Road.setStanding d) { r.setSec i x with flags := fl }) := by
  obtain ⟨gd, ln, fl', he, hp, _⟩ := order_frame d (sectionGates e i) { r.setSec i x with flags := fl }
  rw [he]
  exact ⟨isSome_setSec r i x y hy, fun g => map_place_place (hp g), fun _ => rfl⟩

theorem same_move {r r' : Road} (h : r.Move e r') : SameRecords r r' := by
  cases h with
  | records pd gd hp hg =>
    exact ⟨fun _ => rfl, fun g => map_kept_place (hg g), fun n => isSome_map_eq (hp n)⟩
  | free i p h hs =>
    obtain ⟨pd, gd, he, hp, hp0, hg, hg0⟩ := free_frame r i p h
    rw [he]
    refine ⟨fun _ => rfl, fun g => ?_, fun n => ?_⟩
    · show (vget gd g).map _ = (vget r.gates g).map _
      cases hz : vget r.gates g with
      | none => rw [hg0 g hz]
      | some z =>
        obtain ⟨w, hw, h1, h2, _⟩ := hg g z hz
        simp only [Prod.mk.injEq] at h2
        rw [hw]; simp [GateRec.planned, h1, h2]
    · show (vget pd n).isSome = (vget r.paths n).isSome
      cases hz : vget r.paths n with
      | none => rw [hp0 n hz]
      | some z =>
        obtain ⟨w, hw, _⟩ := hp n z hz
        rw [hw]; rfl
  | auto i p n x h ha hk ht hpp hx hx0 =>
    rw [linkPath_frame n _ (r.occupy i p) x hx]
    refine ⟨fun _ => rfl, fun _ => rfl, fun m => ?_⟩
    show (vget (vset r.paths n _) m).isSome = (vget r.paths m).isSome
    rw [vget_vset]
    split
    · rename_i hm; subst hm
      have hx : vget r.paths n = some x := hx
      rw [hx]; rfl
    · rfl
  | field i p g x h ha hk ht hpp hx hx0 =>
    rw [linkGate_frame g _ (r.occupy i p) x hx]
    refine ⟨fun _ => rfl, fun m => ?_, fun _ => rfl⟩
    show (vget (vset r.gates g _) m).map _ = (vget r.gates m).map _
    rw [vget_vset]
    split
    · rename_i hm; subst hm
      have hx : vget r.gates g = some x := hx
      rw [hx]; rfl
    · rfl
  | sec i x y hy ho hs hn => exact ⟨isSome_setSec r i x y hy, fun _ => rfl, fun _ => rfl⟩
  | shut i y hy hs => exact same_order r i _ y .toClose hy _
  | _ => exact ⟨fun _ => rfl, fun _ => rfl, fun _ => rfl⟩

/-! ### What a move may do to a section and to a pinned posting -/

/-- SWEEP is left only at occupancy KNOWN zero (R122); OPENING is entered by no move (R123). -/
theorem sec_move {r r' : Road} (h : r.Move e r') (i : Fin 8) :
    (r.secState i = some .sweep → r'.secState i = some .sweep ∨ r'.occOf i = some (.known 0)) ∧
    (r'.secState i = some .opening → r.secState i = some .opening) := by
  have same : r'.secState i = r.secState i →
      (r.secState i = some .sweep → r'.secState i = some .sweep ∨ r'.occOf i = some (.known 0)) ∧
      (r'.secState i = some .opening → r.secState i = some .opening) := fun h =>
    ⟨fun hs => .inl (h.trans hs), fun hs => h.symm.trans hs⟩
  cases h with
  | free j p h hs =>
    obtain ⟨pd, gd, he, _⟩ := free_frame r j p h
    refine same ?_
    rw [he]; rfl
  | auto j p n x h ha hk ht hpp hx hx0 =>
    refine same ?_
    rw [linkPath_frame n _ (r.occupy j p) x hx]; rfl
  | field j p g x h ha hk ht hpp hx hx0 =>
    refine same ?_
    rw [linkGate_frame g _ (r.occupy j p) x hx]; rfl
  | sec j x y hy ho hs hn =>
    by_cases hij : j = i
    · subst hij
      rw [secState_setSec_self]
      refine ⟨fun hsw => ?_, fun ho => ?_⟩
      · rw [hsw] at hy
        exact (hs (Option.some.inj hy).symm).imp (congrArg some) id
      · rw [hy, hn (Option.some.inj ho)]
    · refine same ?_
      unfold Road.secState
      rw [sec_setSec, if_neg hij]
  | shut j y hy hs =>
    obtain ⟨gd, ln, fl', he, _⟩ := order_frame .toClose (sectionGates e j) (r.enter j .shutting)
    by_cases hij : j = i
    · subst hij
      rw [he]
      have h1 : (r.enter j .shutting).secState j = some .shutting := by
        unfold Road.enter
        rw [secState_raise, secState_setSec_self]
      refine ⟨fun hsw => ?_, fun ho => ?_⟩
      · rw [hsw] at hy
        exact absurd (Option.some.inj hy).symm hs
      · have ho : (r.enter j .shutting).secState j = some .opening := ho
        rw [h1] at ho; cases ho
    · refine same ?_
      rw [he]
      show (r.enter j .shutting).secState i = _
      unfold Road.enter Road.secState
      show ((r.setSec j _).sec i).map _ = _
      rw [sec_setSec, if_neg hij]
  | _ => exact same rfl

/-- An ACTIVE posting whose pin lies after pass time stays so in every move (R12). -/
theorem pinned_move {r r' : Road} (h : r.Move e r') (hl : r.LinkLaw) (i : Fin 256) (g : BitVec 4)
    (t : Nat) (ht : e.now < t) (hp : Pinned r i g t) : Pinned r' i g t := by
  obtain ⟨hg, p, t', hpost, hact, hpin, hle⟩ := hp
  have slot : r'.slot i = r.slot i → Pinned r' i g t := fun h => by
    unfold Pinned
    rw [h]; exact ⟨hg, p, t', hpost, hact, hpin, hle⟩
  have occ : ∀ (j : Fin 256) (q : Posting), (r.slot j).posting = none →
      (r.occupy j q).slot i = r.slot i := fun j q hj => by
    rw [occupy_slot, if_neg]
    rintro rfl
    rw [hj] at hpost; cases hpost
  cases h with
  | free j q h hs =>
    refine slot ?_
    rw [free_slot r j q h, if_neg]
    rintro rfl
    rw [hpost] at h
    exact hs (by rw [← Option.some.inj h]; exact hact)
  | station j q h ha ht hf hd => exact slot (occ j q h)
  | auto j q n x h ha hk ht hpp hx hx0 =>
    refine slot ?_
    rw [linkPath_frame n _ (r.occupy j q) x hx]; exact occ j q h
  | field j q g x h ha hk ht hpp hx hx0 =>
    refine slot ?_
    rw [linkGate_frame g _ (r.occupy j q) x hx]; exact occ j q h
  | rewrite j p0 q v fl d h =>
    by_cases hji : i = j
    · subst hji
      have hp0 : p0 = p := Option.some.inj (h.was.symm.trans hpost)
      subst hp0
      rcases h.stays hact with hq | ⟨_, hq⟩
      · obtain ⟨t2, ht2, hle2⟩ := h.pinLater hact hq t' hpin
        unfold Pinned
        rw [rewritten_slot_self]
        exact ⟨hg, q, t2, rfl, hq, ht2, by omega⟩
      · rcases hq t' hpin with hq | hq
        · omega
        · have hf := hq hl
          have := (hl.own i p0 h.was (by rw [hf]; simp)).2.2 hf
          rw [hpin] at this; cases this
    · exact slot (rewritten_slot_ne r j q v fl d i hji)
  | shut j y hy hs =>
    obtain ⟨gd, ln, fl', he, _⟩ := order_frame .toClose (sectionGates e j) (r.enter j .shutting)
    refine slot ?_
    rw [he]; rfl
  | _ => exact slot rfl

end Keeps

end Sys2Proof.Machine
end

