-- ==== Sys2Proof/Laws/Turns.lean ====
section
/-! SUPPORT. What one command can do to the plan, the part state and the road blocks, said once: each
command's effect is one of the turns below. -/

namespace Sys2Proof.Machine

/-- A section is ordered to a standing order and its gates with it. -/
def Road.ordered (e : Env) (r : Road) (i : Fin 8) (st : SecState) (d : Order) : Road :=
  (sectionGates e i).foldl (Road.setStanding d) (r.enter i st)

/-- How one command can change the plan, the part state and the road blocks; `q` holds where the
command may be RELEASE_SECTION. -/
inductive Turn (q : Prop) (s s' : State) : Prop
  /-- Nothing but flags and the free-value counter. -/
  | idle (hpl : s'.plan = s.plan) (hpt : s'.part = s.part) (fl : BitVec 14) (n : Nat)
      (hr : s'.road = { s.road with flags := fl, fresh := n })
  /-- A run of moves in RUNNING. -/
  | move (hpl : s'.plan = s.plan) (hpt : s'.part = s.part) (hrun : s.part = .running) (e : Env)
      (he : e.plan = s.plan) (hn : e.now = s'.cru.passTime) (hm : Road.Moves e s.road s'.road)
  /-- Moves, a change of occupancy, and moves. -/
  | counted (hpl : s'.plan = s.plan) (hpt : s'.part = s.part) (hrun : s.part = .running) (e : Env)
      (he : e.plan = s.plan) (hn : e.now = s'.cru.passTime) (i : Fin 8) (x : Occ) (r : Road)
      (hm : Road.Moves e s.road r) (hsec : r.sections = s.road.sections)
      (hm' : Road.Moves e (r.setOcc i x) s'.road)
  /-- RELEASE_SECTION of a CLEARABLE section. -/
  | released (hpl : s'.plan = s.plan) (hpt : s'.part = s.part) (hrun : s.part = .running) (e : Env)
      (he : e.plan = s.plan) (hn : e.now = s'.cru.passTime) (i : Fin 8)
      (hs : s.road.secState i = some .clearable) (hq : q)
      (hm : Road.Moves e (s.road.ordered e i .opening .toOpen) s'.road)
  /-- A SETTLE's marker is appended. -/
  | settled (hpl : s'.plan = s.plan) (hpt : s'.part = s.part) (hrun : s.part = .running) (e : Env)
      (he : e.plan = s.plan) (hn : e.now = s'.cru.passTime) (st : Settle)
      (hs : s.road.settle = none)
      (hm : Road.Moves e { s.road with queue := s.road.queue ++ [.marker], settle := some st }
        s'.road)
  /-- A PLAN request in PLANNING. -/
  | edited (hp : s.part = .planning) (hpt : s'.part = .planning) (hr : s'.road = s.road)
  | commissioned (hp : s.part = .planning) (hpt : s'.part = .running) (hpl : s'.plan = s.plan)
      (hf : s.plan.fault = none) (hr : s'.road = s.road.commissioned s.plan s.pins)
  | decommissioned (hp : s.part = .running) (hpt : s'.part = .planning) (hpl : s'.plan = s.plan)
      (hb : s.blocked = none) (hc : s'.cru.passTime = s.cru.passTime)
      (hr : s'.road = s.road.decommissioned)
  /-- A millisecond of the oscillator. -/
  | ticked (hpl : s'.plan = s.plan) (hpt : s'.part = s.part) (hr : s'.road = s.road.ticked)
  /-- Mains loss or the reset pin. -/
  | stopped (hpl : s'.plan = s.plan) (hpt : s'.part = s.part) (hr : s'.road = s.road.stopped)
  | cold (hpt : s'.part = .planning) (ht : s'.cru.timeValid = false) (fl : BitVec 14) (n : Nat)
      (hr : s'.road = { Road.cold with flags := fl, fresh := n })
  | warmRunning (hpl : s'.plan = s.plan) (hp : s.part = .running) (hpt : s'.part = .running)
      (e : Env) (he : e.plan = s.plan) (hn : e.now = s'.cru.passTime)
      (hr : s'.road = s.road.warmRunning e s.pins)
  | warmPlanning (hpl : s'.plan = s.plan) (hp : s.part = .planning) (hpt : s'.part = .planning)
      (fl : BitVec 14) (hr : s'.road = { s.road.idle s.road.slots with
        flags := fl, freeLines := s.road.freeLines, reserve := s.road.reserve })

namespace Turn

variable {q : Prop}

/-- A turn says nothing of the port. -/
theorem port {s s' : State} (p p' : Port) (h : Turn q { s with port := p } s') :
    Turn q s { s' with port := p' } := by
  cases h with
  | idle a b c d f => exact .idle a b c d f
  | move a b c d f g h => exact .move a b c d f g h
  | counted a b c d f g h i j k l m => exact .counted a b c d f g h i j k l m
  | released a b c d f g h i j k => exact .released a b c d f g h i j k
  | settled a b c d f g h i j => exact .settled a b c d f g h i j
  | edited a b c => exact .edited a b c
  | commissioned a b c d f => exact .commissioned a b c d f
  | decommissioned a b c d f g => exact .decommissioned a b c d f g
  | ticked a b c => exact .ticked a b c
  | stopped a b c => exact .stopped a b c
  | cold a b c d f => exact .cold a b c d f
  | warmRunning a b c d f g h => exact .warmRunning a b c d f g h
  | warmPlanning a b c d f => exact .warmPlanning a b c d f

theorem pending {s s' : State} (l : List Instr) (h : Turn q { s with pending := l } s') :
    Turn q s s' := by
  cases h with
  | idle a b c d f => exact .idle a b c d f
  | move a b c d f g h => exact .move a b c d f g h
  | counted a b c d f g h i j k l m => exact .counted a b c d f g h i j k l m
  | released a b c d f g h i j k => exact .released a b c d f g h i j k
  | settled a b c d f g h i j => exact .settled a b c d f g h i j
  | edited a b c => exact .edited a b c
  | commissioned a b c d f => exact .commissioned a b c d f
  | decommissioned a b c d f g => exact .decommissioned a b c d f g
  | ticked a b c => exact .ticked a b c
  | stopped a b c => exact .stopped a b c
  | cold a b c d f => exact .cold a b c d f
  | warmRunning a b c d f g h => exact .warmRunning a b c d f g h
  | warmPlanning a b c d f => exact .warmPlanning a b c d f

theorem same {s s' : State} (hpl : s'.plan = s.plan) (hpt : s'.part = s.part)
    (hr : s'.road = s.road) : Turn q s s' := .idle hpl hpt s.road.flags s.road.fresh hr

/-! ### In PLANNING the events of the road blocks find nothing -/

section Bare

variable {r : Road} (hb : r.Bare) (e : Env)
include hb

theorem bare_answered (l : Fin 4) (a : Byte) (take : Exchange → Road → Option Road) :
    r.answered e l a take = r := by
  unfold Road.answered
  rw [hb.lines l]

theorem bare_sec (i : Fin 8) : r.sec i = none := hb.sections i

theorem bare_secState (i : Fin 8) : r.secState i = none := by
  unfold Road.secState
  rw [hb.sections i]; rfl

theorem bare_noticeReachesLead (i : Fin 8) : r.noticeReachesLead i e = r := by
  unfold Road.noticeReachesLead
  rw [hb.sections i]

theorem bare_noticeWaitOver (i : Fin 8) : r.noticeWaitOver i e = r := by
  unfold Road.noticeWaitOver
  rw [bare_secState hb i]; rfl

theorem bare_sweepMinimumRun (i : Fin 8) : r.sweepMinimumRun i e = r := by
  unfold Road.sweepMinimumRun
  rw [hb.sections i]

theorem bare_sweepOverdueRun (i : Fin 8) : r.sweepOverdueRun i e = r := by
  unfold Road.sweepOverdueRun
  rw [hb.sections i]

theorem bare_travelLimit (g : Fin 16) : r.travelLimit e g = r := by
  unfold Road.travelLimit
  rw [hb.gates g]

theorem bare_windowRunOut (p : Fin 24) : r.windowRunOut p = r := by
  unfold Road.windowRunOut
  rw [hb.paths p]

theorem bare_rise (i : Fin 16) : r.rise i = r := by
  unfold Road.rise
  simp only [hb.inputs i]

theorem bare_fall (i : Fin 16) : r.fall e i = r := by
  unfold Road.fall
  simp only [hb.inputs i]

theorem bare_stuckLimit (i : Fin 16) : r.stuckLimit e i = r := by
  unfold Road.stuckLimit
  simp [hb.inputs i]

theorem bare_modeNotice : r.modeNotice e = r := by
  unfold Road.modeNotice
  have : (allPaths.filter fun p => (r.path p).any (·.watch == .silent)) = [] := by
    rw [List.filter_eq_nil_iff]
    intro p _
    rw [hb.paths p]; simp
  rw [this]; rfl

theorem bare_readyTest (i : Fin 8) : r.readyTest e i = r := by
  unfold Road.readyTest
  rw [hb.sections i]

theorem bare_readyTests : r.readyTests e = r := by
  unfold Road.readyTests
  induction allSections with
  | nil => rfl
  | cons i l ih =>
    rw [List.foldl_cons, bare_readyTest hb e i]; exact ih

end Bare

/-- Flags are no record. -/
theorem bare_flags {r : Road} (hb : r.Bare) (fl : BitVec 14) (n : Nat) :
    Road.Bare { r with flags := fl, fresh := n } :=
  ⟨hb.slots, hb.reserve, hb.queue, hb.settle, hb.sections, hb.gates, hb.paths, hb.lines, hb.inputs⟩

/-! ### Answers and events -/

theorem hand_road (s : State) (r : Road) : (s.hand r).road = r ∧ (s.hand r).plan = s.plan ∧
    (s.hand r).part = s.part ∧ (s.hand r).cru = s.cru ∧ (s.hand r).pins = s.pins := by
  unfold State.hand
  split <;> exact ⟨rfl, rfl, rfl, rfl, rfl⟩

/-- A request: discarded, or what its handler does. -/
theorem request {code : Byte} {sent : Shifted} {run : Handler} {s s' : State}
    (hrun : ∀ t : State, t.plan = s.plan → t.part = s.part → t.road = s.road → t.pins = s.pins →
      t.cru = s.cru → s.port.state = .ready → Turn q t (run t).1)
    (h : Machine.request code sent run s = .next s') : Turn q s s' := by
  unfold Machine.request at h
  cases h
  split
  · rename_i hr
    have h1 := hrun ((s.shiftOut (s.idleBytes (sent.bytes.length + 4) sent.begunBusy)).receive code sent.bytes) rfl rfl rfl rfl
      rfl hr.2
    unfold State.answer
    generalize run ((s.shiftOut (s.idleBytes (sent.bytes.length + 4) sent.begunBusy)).receive code sent.bytes) = x at h1 ⊢
    split
    · exact port _ _ h1
    · exact port _ _ h1
  · exact same rfl rfl rfl

/-- A handler behind the part-state check and the body check. -/
theorem inPart {part : PartState} {f : Handler} {t : State} (h : t.part = part → Turn q t (f t).1) :
    Turn q t (Machine.inPart part f t).1 := by
  unfold Machine.inPart
  split
  · rename_i hp; exact h hp
  · exact same rfl rfl rfl

theorem withBody {α : Type} {p : Parse α} {body : List Byte} {f : α → State → State × Option Reply}
    {t : State} (h : ∀ x, readBody p body = some x → Turn q t (f x t).1) :
    Turn q t (Machine.withBody p body f t).1 := by
  unfold Machine.withBody
  split
  · rename_i x hx; exact h x hx
  · exact same rfl rfl rfl

/-- A request that only reads. -/
theorem reads {α : Type} {p : Parse α} {body : List Byte} {f : State → α → Reply} {t : State} :
    Turn q t (Machine.withBody p body (Machine.reads f) t).1 :=
  withBody fun _ _ => same rfl rfl rfl

/-- A request that acts on the road blocks by moves. -/
theorem acts {α : Type} {f : Env → α → Road → Road × Reply} {x : α} {t : State}
    (hrun : t.part = .running) (hm : Road.Moves t.env t.road (f t.env x t.road).1) :
    Turn q t (Machine.acts f x t).1 :=
  .move rfl rfl hrun t.env rfl rfl hm

/-! ### The requests that act -/

theorem postRequest (e : Env) (b : PostBody) (r : Road) :
    Road.Moves e r (Machine.postRequest e b r).1 := by
  unfold Machine.postRequest
  split
  · exact Moves.refl r
  · rename_i p hp
    have ha : p.authority = .station := by
      unfold PostBody.posting? at hp
      split at hp
      · split at hp
        · rw [← Option.some.inj hp]
        · cases hp
      · cases hp
    split
    · exact Moves.refl r
    · rename_i hd
      split
      · exact Moves.refl r
      · rename_i hf
        split
        · exact Moves.refl r
        · rename_i ht
          split
          · exact Moves.refl r
          · rename_i i hi
            refine Moves.post i p r (Moves.lowestFree_posting hi) ha (by omega) (by simpa using hf)
              fun hk => ?_
            simpa [hk] using hd

theorem changeRequest (e : Env) (b : ChangeBody) (r : Road) :
    Road.Moves e r (Machine.changeRequest e b r).1 := by
  unfold Machine.changeRequest
  split
  · exact Moves.refl r
  · rename_i h p hf
    have hn : r.named h = some p := by
      unfold Road.find at hf
      obtain ⟨h', _, hf⟩ := Option.bind_eq_some_iff.mp hf
      obtain ⟨p', hp', hf⟩ := Option.map_eq_some_iff.mp hf
      cases hf; exact hp'
    split
    · exact Moves.refl r
    · rename_i ha
      split
      · exact Moves.refl r
      · rename_i hs
        split
        · exact Moves.refl r
        · rename_i hfit
          split
          · exact Moves.refl r
          · split
            · exact Moves.refl r
            · split
              · exact Moves.refl r
              · rename_i ht
                exact Moves.change b h p r hn (by simpa using ha) hs (by simpa using hfit)
                  (by simpa using ht)

theorem retireRequest (e : Env) (x : Option Handle × Bool) (r : Road) :
    Road.Moves e r (Machine.retireRequest e x r).1 := by
  unfold Machine.retireRequest
  split
  · exact Moves.refl r
  · rename_i h p hf
    have hn : r.named h = some p := by
      unfold Road.find at hf
      obtain ⟨h', _, hf⟩ := Option.bind_eq_some_iff.mp hf
      obtain ⟨p', hp', hf⟩ := Option.map_eq_some_iff.mp hf
      cases hf; exact hp'
    split
    · exact Moves.refl r
    · split
      · exact Moves.refl r
      · rename_i hs
        exact Moves.freeOne r _ p (Moves.named_posting hn) (by rw [hs]; simp)
      · split
        · exact Moves.refl r
        · rename_i hpin
          split
          · exact Moves.refl r
          · have h9 := Moves.retireByHost (e := e) x.2 h p r hn hpin
            dsimp only
            exact h9

theorem forceRequest (e : Env) (i : Fin 8) (r : Road) :
    Road.Moves e r (Machine.forceRequest e i r).1 := by
  unfold Machine.forceRequest
  split
  · exact Moves.refl r
  · rename_i h; exact Moves.enterSweep i r h
  · exact Moves.refl r

theorem retryRequest (e : Env) (g : Fin 16) (r : Road) :
    Road.Moves e r (Machine.retryRequest e g r).1 := by
  unfold Machine.retryRequest
  split
  · exact Moves.refl r
  · rename_i x hx
    split
    · exact Moves.retry g x r hx
    · exact Moves.refl r

theorem releaseRequest (i : Fin 8) (t : State) (hrun : t.part = .running) (hq : q) :
    Turn q t (Machine.acts Machine.releaseRequest i t).1 := by
  unfold Machine.acts Machine.releaseRequest
  split
  · exact same rfl rfl rfl
  · rename_i h
    exact .released rfl rfl hrun t.env rfl rfl i h hq (Moves.gateTest i _)
  · exact same rfl rfl rfl

/-- A change of occupancy. -/
theorem changeOcc (e : Env) (i : Fin 8) (x : Occ) (r : Road) :
    Road.Moves e r (r.changeOcc e i x) ∨
      r.changeOcc e i x = (r.setOcc i x).sweepTest e i := by
  unfold Road.changeOcc
  split
  · exact .inl (Moves.refl r)
  · split
    · exact .inl (Moves.refl r)
    · exact .inr rfl

theorem confirmRequest (i : Fin 8) (t : State) (hrun : t.part = .running) :
    Turn q t (Machine.acts Machine.confirmRequest i t).1 := by
  unfold Machine.acts Machine.confirmRequest
  split
  · exact same rfl rfl rfl
  · rcases changeOcc t.env i (.known 0) t.road with h | h
    · exact .move rfl rfl hrun t.env rfl rfl h
    · refine .counted rfl rfl hrun t.env rfl rfl i (.known 0) t.road (Moves.refl _) rfl ?_
      show Road.Moves t.env _ (t.road.changeOcc t.env i (.known 0))
      rw [h]
      exact Moves.sweepTest i _
  · exact same rfl rfl rfl

/-! ### Edges and stuck inputs -/

theorem countPulse (e : Env) (i : Fin 8) (sense : Sense) (r : Road) :
    Road.Moves e r (r.countPulse e i sense) ∨
      ∃ x, r.countPulse e i sense = (r.setOcc i x).sweepTest e i := by
  unfold Road.countPulse
  split
  · exact .inl (Moves.refl r)
  · exact (changeOcc e i _ r).imp id fun h => ⟨_, h⟩

theorem fall (e : Env) (i : Fin 16) (r : Road) : Road.Moves e r (r.fall e i) ∨
    ∃ j x r1, Road.Moves e r r1 ∧ r1.sections = r.sections ∧ r.fall e i = (r1.setOcc j x).sweepTest e j := by
  unfold Road.fall
  dsimp only
  split
  · exact .inl (Moves.refl r)
  · exact .inl (Moves.setInput r i _)
  · split
    · split
      · exact .inl (Moves.setInput r i _)
      · split
        · exact .inl (Moves.setInput r i _)
        · have h1 := Moves.setInput (e := e) r i
            { (r.input i).fallen with counted := (r.input i).counted + 1 }
          split
          · rename_i j sense _
            rcases countPulse e j sense _ with h | ⟨x, h⟩
            · exact .inl (Moves.trans h1 h)
            · exact .inr ⟨j, x, _, h1, rfl, h⟩
          · exact .inl h1
    · exact .inl (Moves.setInput r i _)

theorem stuckLimit (e : Env) (i : Fin 16) (r : Road) : Road.Moves e r (r.stuckLimit e i) ∨
    ∃ j x r1, Road.Moves e r r1 ∧ r1.sections = r.sections ∧ r.stuckLimit e i = (r1.setOcc j x).sweepTest e j := by
  unfold Road.stuckLimit
  dsimp only
  split
  · have h1 := Moves.trans (Moves.setInput (e := e) r i
      { r.input i with state := .stuck, timer := none }) (Moves.raise _ .detectorFault)
    split
    · rename_i j _ _
      rcases changeOcc e j .unknown _ with h | h
      · exact .inl (Moves.trans h1 h)
      · exact .inr ⟨j, .unknown, _, h1, rfl, h⟩
    · exact .inl h1
  · exact .inl (Moves.refl r)

/-- An event of the road blocks that may change an occupancy: moves in RUNNING, nothing in
PLANNING. The pins may have moved before it. -/
theorem onRoadCounted {f : Env → Road → Road} {s s' : State} (pins : Vector Level 16)
    (hp : s.PartLaw) (hb : s.road.Bare → f s.env s.road = s.road)
    (hm : Road.Moves s.env s.road (f s.env s.road) ∨ ∃ j x r1, Road.Moves s.env s.road r1 ∧
      r1.sections = s.road.sections ∧ f s.env s.road = (r1.setOcc j x).sweepTest s.env j)
    (h : Machine.onRoad f { s with pins := pins } = .next s') : Turn q s s' := by
  have he : State.env { s with pins := pins } = s.env := rfl
  unfold Machine.onRoad at h
  rw [he] at h
  cases h
  split
  · obtain ⟨h3, h4, h5, h6, _⟩ := hand_road { s with pins := pins } (f s.env s.road)
    obtain hpt | hpt : s.part = .planning ∨ s.part = .running := by cases s.part <;> simp
    · exact same h4 h5 (h3.trans (hb (hp.1 hpt)))
    · have hn : s.env.now = (State.hand { s with pins := pins } (f s.env s.road)).cru.passTime := by
        rw [h6]; rfl
      rcases hm with hm | ⟨j, x, r1, h1, hsec, h2⟩
      · exact .move h4 h5 hpt s.env rfl hn (by rw [h3]; exact hm)
      · refine .counted h4 h5 hpt s.env rfl hn j x r1 h1 hsec ?_
        rw [h3, h2]
        exact Moves.sweepTest j _
  · exact same rfl rfl rfl

/-- An event of the road blocks: moves in RUNNING, nothing in PLANNING. -/
theorem onRoad {f : Env → Road → Road} {s s' : State} (pins : Vector Level 16) (hp : s.PartLaw)
    (hb : s.road.Bare → f s.env s.road = s.road) (hm : Road.Moves s.env s.road (f s.env s.road))
    (h : Machine.onRoad f { s with pins := pins } = .next s') : Turn q s s' :=
  onRoadCounted pins hp hb (.inl hm) h

/-- An answer on a field line. -/
theorem answer {l : Fin 4} {a : Byte} {take : Env → Exchange → Road → Option Road} {s s' : State}
    (hp : s.PartLaw) (hm : ∀ e ex r r', take e ex r = some r' → Road.Moves e r r')
    (h : Machine.onRoad (fun e r => r.answered e l a (take e)) s = .next s') : Turn q s s' :=
  onRoad (f := fun e r => r.answered e l a (take e)) s.pins hp (fun hb => bare_answered hb _ _ _ _)
    (Moves.answered _ _ _ _ (hm _)) h

/-! ### SETTLE, the mode and pass time -/

theorem settleRequest (n : Nat) (t : State) (hrun : t.part = .running)
    (hs : t.road.settle = none) : Turn q t (Machine.settleRequest n t).1 :=
  .settled rfl rfl hrun t.env rfl rfl { ms := 0, timeout := n } hs (Moves.pump _)

/-- A waiting SETTLE ends early: by ABORT or at its timeout. -/
theorem dropMarker {s s' : State} (hp : s.PartLaw) (h1 : s'.plan = s.plan) (h2 : s'.part = s.part)
    (h3 : s'.cru = s.cru) (h4 : s'.road = s.road.dropMarker s.env) : Turn q s s' := by
  cases hpt : s.part
  · have hb := hp.1 hpt
    refine same h1 h2 (h4.trans ?_)
    unfold Road.dropMarker
    have hq := hb.queue
    have hst := hb.settle
    rw [if_neg (by rw [hq]; simp)]
    have : { s.road with settle := none } = { s.road with settle := s.road.settle } := by rw [hst]
    exact this
  · exact .move h1 h2 hpt s.env rfl (by rw [h3]; rfl) (by rw [h4]; exact Moves.dropMarker _)

/-- The mode is left, from a state whose flags alone differ. -/
theorem leaveAttended (s : State) (fl : BitVec 14) (hp : s.PartLaw) :
    Turn q s (State.leaveAttended { s with road := { s.road with flags := fl } }) := by
  unfold State.leaveAttended
  dsimp only
  generalize hu : (State.env _) = u
  have h5 : u.plan = s.plan := by rw [← hu]; rfl
  have h6 : u.now = s.cru.passTime := by rw [← hu]; rfl
  obtain hpt | hpt : s.part = .planning ∨ s.part = .running := by cases s.part <;> simp
  · have hb := bare_flags (hp.1 hpt) fl s.road.fresh
    refine .idle rfl rfl fl s.road.fresh ?_
    dsimp only
    have h1 := bare_modeNotice hb u
    have h2 := bare_readyTests hb u
    rw [h1, h2]
  · refine .move rfl rfl hpt u h5 h6 ?_
    dsimp only
    exact Moves.trans (Moves.one (.plain s.road s.road.awaiting s.road.work s.road.links s.road.lines
      s.road.inputs fl s.road.fresh)) (Moves.trans (Moves.modeNotice _) (Moves.readyTests _))

theorem passTimeEvent (s : State) (x : Cru) :
    Turn q s (State.passTimeEvent { s with cru := x }) := by
  unfold State.passTimeEvent
  dsimp only
  split
  · rename_i hpt
    generalize hu : State.env _ = u
    have h5 : u.plan = s.plan := by rw [← hu]; rfl
    have h6 : u.now = x.passTime := by rw [← hu]; rfl
    obtain ⟨h1, h2, h3, h4, _⟩ := hand_road { s with cru := x } (s.road.passTimeEvent u)
    exact .move h2 h3 hpt u h5 (by rw [h4]; exact h6) (by rw [h1]; exact Moves.passTimeEvent _)
  · exact same rfl rfl rfl

/-! ### Starts -/

theorem startFrom (c : StartCause) (s : State) (x : Cru) :
    Turn q s (State.start c { s with cru := x }) := by
  unfold State.start
  split
  · unfold State.warmStart
    dsimp only
    cases hpt : s.part
    · exact .warmPlanning rfl hpt rfl Flag.start.bit rfl
    · dsimp only
      generalize hu : State.env _ = u
      have h5 : u.plan = s.plan := by rw [← hu]; rfl
      have h6 : u.now = x.passTime := by rw [← hu]; rfl
      refine Turn.warmRunning ?_ hpt ?_ u h5 h6 ?_
      all_goals dsimp only
  · exact .cold rfl rfl _ _ rfl

theorem stopFrom (s : State) (x : Cru) : Turn q s (State.stop { s with cru := x }) :=
  .stopped rfl rfl rfl

/-! ### Every command -/

/-- A request that reads, behind the part-state check. -/
theorem readsIn {α : Type} {p : Parse α} {code : Byte} {sent : Shifted} {part : PartState}
    {f : State → α → Reply} {s s' : State}
    (h : Machine.request code sent
      (Machine.inPart part (Machine.withBody p sent.bytes (Machine.reads f))) s = .next s') :
    Turn q s s' :=
  request (fun _ _ _ _ _ _ _ => inPart fun _ => reads) h

/-- A request that acts by moves, behind the part-state check. -/
theorem actsIn {α : Type} {p : Parse α} {code : Byte} {sent : Shifted}
    {f : Env → α → Road → Road × Reply} {s s' : State}
    (hf : ∀ e x r, Road.Moves e r (f e x r).1)
    (h : Machine.request code sent
      (Machine.inPart .running (Machine.withBody p sent.bytes (Machine.acts f))) s = .next s') :
    Turn q s s' :=
  request (fun _ _ _ _ _ _ _ => inPart fun hr => withBody fun _ _ => acts hr (hf _ _ _)) h

/-- A PLAN request. -/
theorem editsIn {α : Type} {p : Parse α} {code : Byte} {sent : Shifted} {f : α → Plan → Plan}
    {s s' : State}
    (h : Machine.request code sent
      (Machine.inPart .planning (Machine.withBody p sent.bytes (Machine.edits f))) s = .next s') :
    Turn q s s' :=
  request (fun _ _ _ _ _ _ _ => inPart fun hr => withBody fun _ _ => .edited hr hr rfl) h

/-- Every command's effect is a turn, where the part law holds and a READY port has no SETTLE. -/
theorem exec (c : Instr) (s s' : State) (hp : s.PartLaw)
    (hq : s.port.state = .ready → s.road.settle = none) (h : Machine.exec c s = .next s') :
    Turn (∃ body begun, c = .releaseSection ⟨body, begun⟩) s s' := by
  cases c with
  | post sent => exact actsIn postRequest h
  | change sent => exact actsIn changeRequest h
  | retire sent => exact actsIn retireRequest h
  | forceSweep sent => exact actsIn forceRequest h
  | gateRetry sent => exact actsIn retryRequest h
  | lookup sent => exact readsIn h
  | scan sent => exact readsIn h
  | walk sent => exact readsIn h
  | unitStatus sent => exact readsIn h
  | sectionStatus sent => exact readsIn h
  | gateStatus sent => exact readsIn h
  | detectorStatus sent => exact readsIn h
  | pathStatus sent => exact readsIn h
  | describe sent => exact request (fun _ _ _ _ _ _ _ => reads) h
  | readTime sent => exact request (fun _ _ _ _ _ _ _ => reads) h
  | readPlan sent => exact request (fun _ _ _ _ _ _ _ => reads) h
  | releaseSection sent =>
    exact request (fun _ _ _ _ _ _ _ => inPart fun hr => withBody fun i _ => releaseRequest i _ hr ⟨sent.bytes, sent.begunBusy, rfl⟩) h
  | confirmClear sent =>
    exact request (fun _ _ _ _ _ _ _ => inPart fun hr => withBody fun i _ => confirmRequest i _ hr) h
  | settle sent =>
    exact request (fun t _ _ hroad _ _ hs => inPart fun hr => withBody fun n _ =>
      settleRequest n t hr (by rw [hroad]; exact hq hs)) h
  | abort sent =>
    have h : Machine.execAbort sent s = .next s' := h
    unfold Machine.execAbort at h
    split at h
    · cases h
      exact dropMarker hp rfl rfl rfl rfl
    · exact readsIn h
  | takeAttention sent =>
    exact request (fun t _ _ _ _ _ _ => withBody fun _ _ => .idle rfl rfl 0 t.road.fresh rfl) h
  | setEnables sent => exact request (fun _ _ _ _ _ _ _ => withBody fun _ _ => same rfl rfl rfl) h
  | attend sent => exact request (fun _ _ _ _ _ _ _ => withBody fun _ _ => same rfl rfl rfl) h
  | unattend sent =>
    refine request (fun t hpl hpt hroad _ _ _ => withBody fun x _ => ?_) h
    have hpt' : t.PartLaw := by
      unfold State.PartLaw
      rw [hpl, hpt, hroad]
      exact hp
    unfold Machine.unattend
    dsimp only
    split
    · exact same rfl rfl rfl
    · split
      · exact same rfl rfl rfl
      · exact leaveAttended t t.road.flags hpt'
  | setTime sent =>
    exact request (fun t _ _ _ _ _ _ => withBody fun _ _ => passTimeEvent t _) h
  | planRoad sent => exact editsIn h
  | planUnit sent => exact editsIn h
  | planSection sent => exact editsIn h
  | planDetector sent => exact editsIn h
  | planPath sent => exact editsIn h
  | commission sent =>
    refine request (fun t _ _ _ _ _ _ => inPart fun hr => withBody fun x _ => ?_) h
    unfold Machine.commission
    split
    · exact same rfl rfl rfl
    · split
      · exact same rfl rfl rfl
      · rename_i hf
        exact .commissioned hr rfl rfl hf rfl
  | decommission sent =>
    refine request (fun t _ _ _ _ _ _ => inPart fun hr => withBody fun x _ => ?_) h
    unfold Machine.decommission
    split
    · exact same rfl rfl rfl
    · rename_i hb
      exact .decommissioned hr rfl rfl hb rfl rfl
  | unknownRequestCode code sent =>
    have h : Machine.execUnknownRequestCode code sent s = .next s' := h
    unfold Machine.execUnknownRequestCode at h
    exact request (fun _ _ _ _ _ _ _ => same rfl rfl rfl) h
  | replyRead sent =>
    have h : Host.Outcome.next (s.readReply sent.count sent.begunBusy) = .next s' := h
    cases h
    unfold State.readReply
    split
    · dsimp only
      split
      · exact same rfl rfl rfl
      · exact .idle rfl rfl s.road.flags _ rfl
    · exact same rfl rfl rfl
  | hostIntervalRunOut =>
    have h : Machine.execHostIntervalRunOut s = .next s' := h
    unfold Machine.execHostIntervalRunOut at h
    cases h
    split
    · exact leaveAttended s _ hp
    · exact same rfl rfl rfl
  | settleTimeout =>
    have h : Machine.execSettleTimeout s = .next s' := h
    unfold Machine.execSettleTimeout at h
    cases h
    split
    · exact dropMarker hp rfl rfl rfl rfl
    · exact same rfl rfl rfl
  | passTimeSecond =>
    have h : Machine.execPassTimeSecond s = .next s' := h
    unfold Machine.execPassTimeSecond at h
    cases h
    split
    · exact passTimeEvent s _
    · exact same rfl rfl rfl
  | mainsLoss =>
    have h : Machine.execMainsLoss s = .next s' := h
    unfold Machine.execMainsLoss at h
    cases h
    split
    · dsimp only
      split
      · exact stopFrom s _
      · exact same rfl rfl rfl
    · exact same rfl rfl rfl
  | mainsReturn =>
    have h : Machine.execMainsReturn s = .next s' := h
    unfold Machine.execMainsReturn at h
    cases h
    split
    · exact same rfl rfl rfl
    · dsimp only
      split
      · exact same rfl rfl rfl
      · exact startFrom _ s _
  | resetPinAsserted =>
    have h : Machine.execResetPinAsserted s = .next s' := h
    unfold Machine.execResetPinAsserted at h
    cases h
    dsimp only
    split
    · exact stopFrom s _
    · exact same rfl rfl rfl
  | resetPinReleased =>
    have h : Machine.execResetPinReleased s = .next s' := h
    unfold Machine.execResetPinReleased at h
    cases h
    dsimp only
    split
    · exact startFrom _ s _
    · exact same rfl rfl rfl
  | status line addr report =>
    exact answer hp (take := fun e => Road.takeStatus e report line) (fun e => Moves.takeStatus report line) h
  | ack line addr =>
    exact answer hp (take := fun e => Road.takeAck e line) (fun e => Moves.takeAck line) h
  | ackBurst line addr =>
    exact answer hp (take := fun _ => Road.takeText line .burst) (fun e => Moves.takeText line .burst) h
  | ackSingle line addr =>
    exact answer hp (take := fun _ => Road.takeText line (.line 0)) (fun e => Moves.takeText line (.line 0)) h
  | nak line addr =>
    exact answer hp (take := fun e => Road.takeNak e line) (fun e => Moves.takeNak line) h
  | amendData line addr base severity text =>
    exact answer hp (take := fun e => Road.takeAmend e line base severity text)
      (fun e => Moves.takeAmend line base severity text) h
  | noAnswer line =>
    exact answer hp (take := fun _ _ _ => none) (fun _ _ _ _ h => by cases h) h
  | fieldResponseTimeout line =>
    exact answer hp (take := fun _ _ _ => none) (fun _ _ _ _ h => by cases h) h
  | windowRunOut path =>
    exact onRoad (f := fun _ r => r.windowRunOut path) s.pins hp (fun hb => bare_windowRunOut hb _)
      (Moves.windowRunOut _ _) h
  | travelLimitReached gate =>
    exact onRoad (f := fun e r => r.travelLimit e gate) s.pins hp
      (fun hb => bare_travelLimit hb _ _) (Moves.travelLimit _ _) h
  | noticeTimerReachesL i =>
    exact onRoad s.pins hp (fun hb => bare_noticeReachesLead hb _ _) (Moves.noticeReachesLead _ _) h
  | noticeWaitRunOut i =>
    exact onRoad s.pins hp (fun hb => bare_noticeWaitOver hb _ _) (Moves.noticeWaitOver _ _) h
  | sweepMinimumRun i =>
    exact onRoad s.pins hp (fun hb => bare_sweepMinimumRun hb _ _) (Moves.sweepMinimumRun _ _) h
  | sweepOverdueRun i =>
    exact onRoad s.pins hp (fun hb => bare_sweepOverdueRun hb _ _) (Moves.sweepOverdueRun _ _) h
  | detectorRise input =>
    exact onRoad (f := fun _ r => r.rise input) (vset s.pins input .high) hp
      (fun hb => bare_rise hb _) (Moves.rise _ _) h
  | detectorFall input =>
    exact onRoadCounted (f := fun e r => r.fall e input) (vset s.pins input .low) hp
      (fun hb => bare_fall hb _ _) (fall _ _ _) h
  | stuckLimitReached input =>
    exact onRoadCounted (f := fun e r => r.stuckLimit e input) s.pins hp
      (fun hb => bare_stuckLimit hb _ _) (stuckLimit _ _ _) h
  | requestFrameError sent =>
    have h : Machine.execRequestFrameError sent s = .next s' := h
    unfold Machine.execRequestFrameError at h
    cases h
    dsimp only
    split
    · exact same rfl rfl rfl
    · exact same rfl rfl rfl
  | backupDomainLost =>
    have h : Machine.execBackupDomainLost s = .next s' := h
    unfold Machine.execBackupDomainLost at h
    cases h
    split
    · exact same rfl rfl rfl
    · exact same rfl rfl rfl

/-- A step's effect is a turn too. -/
theorem step (s s' : State) (hp : s.PartLaw) (hq : s.port.state = .ready → s.road.settle = none)
    (h : Machine.step s = .next s') :
    Turn (∃ body begun, s.pending.head? = some (.releaseSection ⟨body, begun⟩)) s s' := by
  unfold Machine.step at h
  split at h
  · rename_i c rest hl
    rw [hl]
    have := exec c { s with pending := rest } s' hp hq h
    simpa only [List.head?_cons, Option.some.injEq] using pending rest this
  · cases h
    unfold State.tick
    dsimp only
    split
    · exact .ticked rfl rfl rfl
    · exact same rfl rfl rfl

end Turn

end Sys2Proof.Machine
end

