-- ==== Sys2Proof/Laws/Lawful.lean ====
section
/-! SUPPORT. What each law of the device needs of a turn: moves keep it (Laws/Keeps.lean), and so do
the other turns. -/

namespace Sys2Proof.Machine

namespace Lawful

/-- What every move keeps, a run of moves keeps. -/
theorem moves {e : Env} {P : Road → Prop} (h : ∀ r r', Road.Move e r r' → P r → P r') {r r' : Road}
    (hm : Road.Moves e r r') (hp : P r) : P r' := by
  induction hm with
  | refl => exact hp
  | tail _ hs ih => exact h _ _ hs ih

theorem firstRounds (e : Env) (r : Road) : Road.Moves e r r.firstRounds :=
  Moves.foldl (fun r l => r.startRound l) (fun r l => Moves.startRound l r) _ _

/-- The first rounds write the lines alone. -/
theorem rounds_frame : ∀ (l : List (Fin 4)) (r : Road),
    ∃ ln, l.foldl (fun r l => r.startRound l) r = { r with lines := ln }
  | [], r => ⟨r.lines, rfl⟩
  | a :: l, r => by
    have h1 : ∃ ln, r.startRound a = { r with lines := ln } := by
      unfold Road.startRound
      split
      · exact ⟨r.lines, rfl⟩
      · exact ⟨_, rfl⟩
    obtain ⟨ln, he⟩ := h1
    obtain ⟨ln', he'⟩ := rounds_frame l { r with lines := ln }
    exact ⟨ln', by rw [List.foldl_cons, he]; exact he'⟩

/-- What an order to a section writes. -/
theorem ordered_frame (e : Env) (r : Road) (i : Fin 8) (st : SecState) (d : Order) :
    ∃ sd gd ln fl, r.ordered e i st d =
      { r with sections := sd, gates := gd, lines := ln, flags := fl }
      ∧ ∀ g, (vget gd g).map GateRec.place = (vget r.gates g).map GateRec.place := by
  obtain ⟨gd, ln, fl', he, hp, _⟩ := order_frame d (sectionGates e i) (r.enter i st)
  exact ⟨(r.enter i st).sections, gd, ln, fl', he, hp⟩

theorem sectionGates_plan {e e' : Env} (h : e.plan = e'.plan) (i : Fin 8) :
    sectionGates e i = sectionGates e' i := by
  unfold sectionGates
  rw [h]

/-! ### The table: slots, free lines, reserve -/

theorem pool_table {r r' : Road} (h : r'.slots = r.slots) (hl : r'.freeLines = r.freeLines)
    (hp : r.PoolLaw) : r'.PoolLaw := by
  unfold Road.PoolLaw Road.textLines Road.slot at *
  rw [h, hl]
  exact hp

theorem reserve_table {r r' : Road} (h : r'.slots = r.slots) (hl : r'.reserve = r.reserve)
    (hp : r.ReserveLaw) : r'.ReserveLaw := by
  unfold Road.ReserveLaw Road.countPostings Road.postings Road.slot at *
  rw [h, hl]
  exact hp

theorem count_table {r r' : Road} (h : r'.slots = r.slots) (f : Posting → Bool) :
    r'.countPostings f = r.countPostings f := by
  unfold Road.countPostings Road.postings Road.slot
  rw [h]

theorem danger_table {r r' : Road} (h : r'.slots = r.slots) (hp : r.DangerLaw) : r'.DangerLaw := by
  unfold Road.DangerLaw Road.slot at *
  rw [h]
  exact hp

theorem current_table {r r' : Road} (h : r'.slots = r.slots) (hd : r'.dir = r.dir)
    (hp : r.CurrentLaw) : r'.CurrentLaw := by
  unfold Road.CurrentLaw Road.namedState Road.named Road.version Road.slot Road.dirOf at *
  rw [h, hd]
  exact hp

theorem copies_table {r r' : Road} (hd : r'.dir = r.dir) (hp : r.CopyLaw) : r'.CopyLaw := by
  unfold Road.CopyLaw Road.dirOf at *
  rw [hd]
  exact hp

/-! ### An empty table -/

theorem textLines_none {r : Road} (h : ∀ i, (r.slot i).posting = none) : r.textLines = 0 := by
  unfold Road.textLines
  rw [List.sum_eq_zero_iff_forall_eq_nat]
  intro x hx
  obtain ⟨i, _, rfl⟩ := List.mem_map.mp hx
  rw [h i]; rfl

theorem count_none {r : Road} (h : ∀ i, (r.slot i).posting = none) (f : Posting → Bool) :
    r.countPostings f = 0 := by
  rw [countPostings_sum, List.sum_eq_zero_iff_forall_eq_nat]
  intro x hx
  obtain ⟨i, _, rfl⟩ := List.mem_map.mp hx
  unfold Slot.counts
  rw [h i]; rfl

theorem danger_none {r : Road} (h : ∀ i, (r.slot i).posting = none) : r.DangerLaw := by
  intro i j p q hp
  rw [h i] at hp; cases hp

theorem emptied (v : Vector Slot 256) (i : Fin 256) : (vget (emptiedSlots v) i).posting = none := by
  unfold emptiedSlots vget
  simp

theorem cold_slot (i : Fin 256) : (Road.cold.slot i).posting = none := by
  unfold Road.cold Road.slot vget
  simp [Slot.cold]

/-! ### Directories with no name in them -/

theorem unknown_names (p : Plan) (i : Fin 48) : handlesOf (vget (unknownDir p) i) = [] := by
  unfold unknownDir
  rw [vget_vofFn]
  split
  · rw [List.filterMap_eq_nil_iff]
    intro c hc
    rw [(List.mem_replicate.mp hc).2]; rfl
  · rfl

theorem current_mem {l : List CopySlot} {h : Handle} {v : Byte} (hm : CopySlot.current h v ∈ l) :
    h ∈ handlesOf l := List.mem_filterMap.mpr ⟨_, hm, rfl⟩

theorem copies_unnamed {r : Road} (h : ∀ i, handlesOf (vget r.dir i) = []) : r.CopyLaw := by
  intro u
  have h1 : (r.dirOf u).filterMap CopySlot.handle? = [] := h (unitIdx u)
  rw [h1]
  exact List.nodup_nil

theorem current_unnamed {r : Road} (h : ∀ i, handlesOf (vget r.dir i) = []) : r.CurrentLaw := by
  intro u x v hm
  have h1 := current_mem hm
  unfold Road.dirOf at h1
  rw [h (unitIdx u)] at h1
  cases h1

theorem no_names (i : Fin 48) : handlesOf (vget (Vector.replicate 48 ([] : List CopySlot)) i) = [] := by
  unfold vget
  simp

/-! ### The records a start makes -/

/-- The records before the first rounds of a commission. -/
theorem commissioned_moves (e : Env) (p : Plan) (pins : Vector Level 16) (r : Road) :
    Road.Moves e { r with
      reserve := p.pathCount + p.gateCount
      dir := unknownDir p
      awaiting := Vector.replicate 48 false
      queue := []
      work := none
      settle := none
      links := seekingLinks p
      lines := Vector.replicate 4 Line.silent
      sections := vofFn fun i => (p.sec i).map fun _ => SectionRec.at .isOpen
      gates := gateRecords p (Vector.replicate 16 none)
      inputs := workingInputs p pins
      occ := unknownOcc p
      paths := vofFn fun i => (p.path i).map fun x => PathRec.start x 0 none none }
      (r.commissioned p pins) := firstRounds e _

theorem warm_moves (e : Env) (pins : Vector Level 16) (r : Road) :
    Road.Moves e (r.warmRecords e.plan pins) (r.warmRunning e pins) := by
  refine Moves.trans (Moves.foldl _ (fun r i => ?_) _ _) (firstRounds e _)
  unfold Road.warmNotice
  exact Moves.ite (fun h => Moves.leadRun i r .notice h.1 (by simp)) fun _ => Moves.refl r

/-! ### Records after a tick, a stop and the start after it -/

variable (r : Road)

theorem ticked_sec (i : Fin 8) : r.ticked.sec i = (r.sec i).map SectionRec.ticked := by
  unfold Road.ticked Road.sec; rw [vget_vofFn]
theorem ticked_gate (g : Fin 16) : r.ticked.gate g = (r.gate g).map GateRec.ticked := by
  unfold Road.ticked Road.gate; rw [vget_vofFn]
theorem ticked_path (p : Fin 24) : r.ticked.path p = (r.path p).map PathRec.ticked := by
  unfold Road.ticked Road.path; rw [vget_vofFn]
theorem ticked_input (i : Fin 16) : r.ticked.input i = (r.input i).ticked := by
  unfold Road.ticked Road.input; rw [vget_vofFn]
theorem ticked_line (l : Fin 4) : r.ticked.line l = (r.line l).ticked := by
  unfold Road.ticked Road.line; rw [vget_vofFn]
theorem stopped_sec (i : Fin 8) : r.stopped.sec i = (r.sec i).map SectionRec.held := by
  unfold Road.stopped Road.sec; rw [vget_vofFn]
theorem stopped_gate (g : Fin 16) : r.stopped.gate g = (r.gate g).map GateRec.held := by
  unfold Road.stopped Road.gate; rw [vget_vofFn]
theorem stopped_path (p : Fin 24) : r.stopped.path p = (r.path p).map PathRec.held := by
  unfold Road.stopped Road.path; rw [vget_vofFn]
theorem warm_sec (p : Plan) (pins : Vector Level 16) (i : Fin 8) :
    (r.warmRecords p pins).sec i = (p.sec i).bind fun x => (r.sec i).map (SectionRec.warm x) := by
  unfold Road.warmRecords Road.sec; rw [vget_vofFn]
theorem warm_path (p : Plan) (pins : Vector Level 16) (i : Fin 24) :
    (r.warmRecords p pins).path i = (p.path i).bind fun x =>
      (r.path i).map fun y => PathRec.start x (r.tableLevel i) y.link y.last := by
  unfold Road.warmRecords Road.path; rw [vget_vofFn]

theorem warm_gate (p : Plan) (pins : Vector Level 16) (g : Fin 16) :
    (r.warmRecords p pins).gate g = vget (gateRecords p r.gates) g := rfl

variable {r}

/-! ### R6, R8, R21 -/

theorem pool {q : Prop} {s s' : State} (h : Turn q s s') (hp : s.road.PoolLaw) :
    s'.road.PoolLaw := by
  cases h with
  | idle a b c d f => rw [f]; exact pool_table rfl rfl hp
  | move a b c e _ _ hm => exact moves (fun _ _ => Keeps.pool_move) hm hp
  | counted a b c e _ _ i x r hm _ hm' =>
    have h1 := moves (fun _ _ => Keeps.pool_move) hm hp
    exact moves (fun _ _ => Keeps.pool_move) hm' (pool_table rfl rfl h1)
  | released a b c e _ _ i hs _ hm =>
    obtain ⟨sd, gd, ln, fl, he, _⟩ := ordered_frame e s.road i .opening .toOpen
    rw [he] at hm
    exact moves (fun _ _ => Keeps.pool_move) hm (pool_table rfl rfl hp)
  | settled a b c e _ _ st hs hm =>
    exact moves (fun _ _ => Keeps.pool_move) hm (pool_table rfl rfl hp)
  | edited a b c => rw [c]; exact hp
  | commissioned a b c d f =>
    rw [f]
    exact moves (fun _ _ => Keeps.pool_move) (commissioned_moves s.env s.plan s.pins s.road)
      (pool_table rfl rfl hp)
  | decommissioned a b c d f g =>
    rw [g]
    unfold Road.PoolLaw
    rw [textLines_none (r := s.road.decommissioned) fun i => emptied s.road.slots i]
    rfl
  | ticked a b c => rw [c]; exact pool_table rfl rfl hp
  | stopped a b c => rw [c]; exact pool_table rfl rfl hp
  | cold a b c d f =>
    have h1 : Road.PoolLaw Road.cold := by
      unfold Road.PoolLaw
      rw [textLines_none cold_slot]
      rfl
    rw [f]
    exact pool_table rfl rfl h1
  | warmRunning a b c e _ _ hr =>
    rw [hr]
    exact moves (fun _ _ => Keeps.pool_move) (warm_moves e s.pins s.road) (pool_table rfl rfl hp)
  | warmPlanning a b c d f => rw [f]; exact pool_table rfl rfl hp

theorem pathCount_le (p : Plan) : p.pathCount ≤ 24 :=
  (List.countP_le_length).trans (by simp)

theorem gateCount_le (p : Plan) : p.gateCount ≤ 48 :=
  (List.countP_le_length).trans (by simp)

theorem reserve_none {r r' : Road} (h : ∀ i, (r.slot i).posting = none) (hs : r'.slots = r.slots)
    (hr : r'.reserve ≤ 256) : r'.ReserveLaw := by
  unfold Road.ReserveLaw
  rw [count_table hs, count_none h, Nat.zero_add]
  exact hr

theorem reserve {q : Prop} {s s' : State} (h : Turn q s s') (hb : s.PartLaw) (hp : s.road.ReserveLaw) :
    s'.road.ReserveLaw := by
  cases h with
  | idle a b c d f => rw [f]; exact reserve_table rfl rfl hp
  | move a b c e _ _ hm => exact moves (fun _ _ => Keeps.reserve_move) hm hp
  | counted a b c e _ _ i x r hm _ hm' =>
    have h1 := moves (fun _ _ => Keeps.reserve_move) hm hp
    exact moves (fun _ _ => Keeps.reserve_move) hm' (reserve_table rfl rfl h1)
  | released a b c e _ _ i hs _ hm =>
    obtain ⟨sd, gd, ln, fl, he, _⟩ := ordered_frame e s.road i .opening .toOpen
    rw [he] at hm
    exact moves (fun _ _ => Keeps.reserve_move) hm (reserve_table rfl rfl hp)
  | settled a b c e _ _ st hs hm =>
    exact moves (fun _ _ => Keeps.reserve_move) hm (reserve_table rfl rfl hp)
  | edited a b c => rw [c]; exact hp
  | commissioned a b c d f =>
    rw [f]
    have h1 := pathCount_le s.plan
    have h2 := gateCount_le s.plan
    exact moves (fun _ _ => Keeps.reserve_move) (commissioned_moves s.env s.plan s.pins s.road)
      (reserve_none (hb.1 a).slots rfl (by show s.plan.pathCount + s.plan.gateCount ≤ 256; omega))
  | decommissioned a b c d f g =>
    rw [g]
    unfold Road.ReserveLaw
    rw [count_none (r := s.road.decommissioned) fun i => emptied s.road.slots i]
    exact Nat.zero_le _
  | ticked a b c => rw [c]; exact reserve_table rfl rfl hp
  | stopped a b c => rw [c]; exact reserve_table rfl rfl hp
  | cold a b c d f =>
    have h1 : Road.ReserveLaw Road.cold := by
      unfold Road.ReserveLaw
      rw [count_none cold_slot]
      exact Nat.zero_le _
    rw [f]
    exact reserve_table rfl rfl h1
  | warmRunning a b c e _ _ hr =>
    rw [hr]
    exact moves (fun _ _ => Keeps.reserve_move) (warm_moves e s.pins s.road) (reserve_table rfl rfl hp)
  | warmPlanning a b c d f => rw [f]; exact reserve_table rfl rfl hp

/-! ### R18, R19 and R21 -/

theorem links_same {r r' : Road} (hs : r'.slots = r.slots) (hp : r'.paths = r.paths)
    (hg : ∀ g, (vget r'.gates g).map GateRec.place = (vget r.gates g).map GateRec.place)
    (hl : r.LinkLaw) : r'.LinkLaw := by
  refine Keeps.link_records (fun i => ?_) (fun n => ?_) (fun g => Keeps.map_place_link (hg g)) hl
  · unfold Road.slot; rw [hs]
  · unfold Road.path; rw [hp]

theorem links_none {r : Road} (h : ∀ i, (r.slot i).posting = none)
    (hp : ∀ n x, r.path n = some x → x.link = none)
    (hg : ∀ g x, r.gate g = some x → x.link = none) : r.LinkLaw := by
  refine ⟨fun n x w hx hxl => ?_, fun g x w hx hxl => ?_, fun g g' x x' w hx _ hxl => ?_,
    fun i p hi => ?_, fun i p hi => ?_, fun i p hi => ?_⟩
  · rw [hp n x hx] at hxl; cases hxl
  · rw [hg g x hx] at hxl; cases hxl
  · rw [hg g x hx] at hxl; cases hxl
  all_goals rw [h i] at hi; cases hi

theorem map_map_link {α β : Type} (f : α → β) {o : Option α} {g : α → α}
    (h : ∀ x, f (g x) = f x) : (o.map g).map f = o.map f := by
  cases o <;> simp [h]

/-- Gate records made from the plan keep the links of the records held before. -/
theorem gateRecords_link {p : Plan} {r : Road}
    (ho : ∀ g, (r.gate g).map GateRec.planned = p.gatePlace g) (g : Fin 16) :
    (vget (gateRecords p r.gates) g).map (fun z => (z.standing, z.link)) =
      (r.gate g).map fun z => (z.standing, z.link) := by
  have h1 := ho g
  unfold Plan.gatePlace at h1
  unfold gateRecords
  rw [vget_vofFn]
  have h2 : r.gate g = vget r.gates g := rfl
  cases hu : p.gateUnit g with
  | none => rw [hu] at h1; simp at h1; rw [h1]
  | some ut =>
    cases hs : p.gateSection g with
    | none => rw [hu, hs] at h1; simp at h1; rw [h1]
    | some i =>
      rw [hu, hs] at h1
      cases hz : r.gate g with
      | none => rw [hz] at h1; simp at h1
      | some z =>
        rw [h2] at hz
        simp only [hz]
        rfl

theorem gateRecords_place (p : Plan) (v : Vector (Option GateRec) 16) (g : Fin 16) :
    (vget (gateRecords p v) g).map GateRec.planned = p.gatePlace g := by
  unfold gateRecords Plan.gatePlace
  rw [vget_vofFn]
  cases p.gateUnit g with
  | none => rfl
  | some ut =>
    cases p.gateSection g with
    | none => rfl
    | some i =>
      cases hz : vget v g <;> rfl

theorem warm_links {e : Env} {r : Road} (pins : Vector Level 16) (ho : r.OfPlan e.plan)
    (hl : r.LinkLaw) : (r.warmRecords e.plan pins).LinkLaw := by
  refine Keeps.link_records (r := r) (fun _ => rfl) (fun n => ?_) (fun g => ?_) hl
  · rw [warm_path]
    have h1 := ho.paths n
    cases h2 : e.plan.path n with
    | none => rw [h2] at h1; simp at h1; rw [h1]; rfl
    | some x =>
      cases h3 : r.path n <;> rfl
  · have h1 := congrArg (Option.map Prod.snd) (gateRecords_link ho.gates g)
    rw [Option.map_map, Option.map_map] at h1
    rw [warm_gate]
    exact h1

/-- Commissioning frees and makes no posting. -/
theorem commissioned_slots (p : Plan) (pins : Vector Level 16) (r : Road) (hb : r.Bare) :
    ∀ i, ((r.commissioned p pins).slot i).posting = none := by
  intro i
  obtain ⟨ln, he⟩ := rounds_frame (List.finRange 4) { r with
      reserve := p.pathCount + p.gateCount
      dir := unknownDir p
      awaiting := Vector.replicate 48 false
      queue := []
      work := none
      settle := none
      links := seekingLinks p
      lines := Vector.replicate 4 Line.silent
      sections := vofFn fun i => (p.sec i).map fun _ => SectionRec.at .isOpen
      gates := gateRecords p (Vector.replicate 16 none)
      inputs := workingInputs p pins
      occ := unknownOcc p
      paths := vofFn fun i => (p.path i).map fun x => PathRec.start x 0 none none }
  unfold Road.commissioned Road.firstRounds
  rw [he]
  exact hb.slots i

theorem links {q : Prop} {s s' : State} (h : Turn q s s') (hb : s.PartLaw) (hp : s.road.LinkLaw) :
    s'.road.LinkLaw := by
  cases h with
  | idle a b c d f => rw [f]; exact links_same (r := s.road) rfl rfl (fun _ => rfl) hp
  | move a b c e _ _ hm => exact moves (fun _ _ => Keeps.link_move) hm hp
  | counted a b c e _ _ i x r hm _ hm' =>
    have h1 := moves (fun _ _ => Keeps.link_move) hm hp
    exact moves (fun _ _ => Keeps.link_move) hm' (links_same (r := r) rfl rfl (fun _ => rfl) h1)
  | released a b c e _ _ i hs _ hm =>
    obtain ⟨sd, gd, ln, fl, he, hg⟩ := ordered_frame e s.road i .opening .toOpen
    rw [he] at hm
    exact moves (fun _ _ => Keeps.link_move) hm (links_same (r := s.road) rfl rfl hg hp)
  | settled a b c e _ _ st hs hm =>
    exact moves (fun _ _ => Keeps.link_move) hm (links_same (r := s.road) rfl rfl (fun _ => rfl) hp)
  | edited a b c => rw [c]; exact hp
  | commissioned a b c d f =>
    rw [f]
    refine moves (fun _ _ => Keeps.link_move) (commissioned_moves s.env s.plan s.pins s.road)
      (links_none (hb.1 a).slots (fun n x hx => ?_) fun g x hx => ?_)
    · have hx : vget (vofFn _) n = some x := hx
      rw [vget_vofFn] at hx
      obtain ⟨y, _, hy⟩ := Option.map_eq_some_iff.mp hx
      rw [← hy]; rfl
    · have hx : vget (gateRecords s.plan (Vector.replicate 16 none)) g = some x := hx
      unfold gateRecords at hx
      rw [vget_vofFn] at hx
      split at hx
      · have hn : vget (Vector.replicate 16 (none : Option GateRec)) g = none := by
          unfold vget; simp
        rw [hn] at hx
        rw [← Option.some.inj hx]; rfl
      · cases hx
  | decommissioned a b c d f g =>
    rw [g]
    refine links_none (fun i => emptied s.road.slots i) (fun n x hx => ?_) fun g x hx => ?_
    · have hx : vget (Vector.replicate 24 none) n = some x := hx
      unfold vget at hx; simp at hx
    · have hx : vget (Vector.replicate 16 none) g = some x := hx
      unfold vget at hx; simp at hx
  | ticked a b c =>
    rw [c]
    refine Keeps.link_records (r := s.road) (fun _ => rfl) (fun n => ?_) (fun g => ?_) hp
    · rw [ticked_path]; exact map_map_link _ fun _ => rfl
    · rw [ticked_gate]; exact map_map_link _ fun _ => rfl
  | stopped a b c =>
    rw [c]
    refine Keeps.link_records (r := s.road) (fun _ => rfl) (fun n => ?_) (fun g => ?_) hp
    · rw [stopped_path]; exact map_map_link _ fun _ => rfl
    · rw [stopped_gate]; exact map_map_link _ fun _ => rfl
  | cold a b c d f =>
    rw [f]
    refine links_none (fun i => cold_slot i) (fun n x hx => ?_) fun g x hx => ?_
    · have hx : vget (Vector.replicate 24 none) n = some x := hx
      unfold vget at hx; simp at hx
    · have hx : vget (Vector.replicate 16 none) g = some x := hx
      unfold vget at hx; simp at hx
  | warmRunning a b c e he _ hr =>
    rw [hr]
    exact moves (fun _ _ => Keeps.link_move) (warm_moves e s.pins s.road)
      (warm_links s.pins (he ▸ (hb.2 b).2) hp)
  | warmPlanning a b c d f =>
    rw [f]
    refine links_none (fun i => (hb.1 b).slots i) (fun n x hx => ?_) fun g x hx => ?_
    · have hx : vget (Vector.replicate 24 none) n = some x := hx
      unfold vget at hx; simp at hx
    · have hx : vget (Vector.replicate 16 none) g = some x := hx
      unfold vget at hx; simp at hx

/-- The moves keep the link law and the danger law together. -/
theorem danger_moves {e : Env} {r r' : Road} (hm : Road.Moves e r r') (hl : r.LinkLaw)
    (hd : r.DangerLaw) : r'.DangerLaw :=
  (moves (P := fun r => r.LinkLaw ∧ r.DangerLaw)
    (fun _ _ h hp => ⟨Keeps.link_move h hp.1, Keeps.danger_move h hp.1 hp.2⟩) hm ⟨hl, hd⟩).2

theorem danger {q : Prop} {s s' : State} (h : Turn q s s') (hb : s.PartLaw) (hl : s.road.LinkLaw)
    (hp : s.road.DangerLaw) : s'.road.DangerLaw := by
  cases h with
  | idle a b c d f => rw [f]; exact danger_table rfl hp
  | move a b c e _ _ hm => exact danger_moves hm hl hp
  | counted a b c e _ _ i x r hm _ hm' =>
    have h1 := danger_moves hm hl hp
    have h2 := moves (fun _ _ => Keeps.link_move) hm hl
    exact danger_moves hm' (links_same (r := r) rfl rfl (fun _ => rfl) h2) (danger_table rfl h1)
  | released a b c e _ _ i hs _ hm =>
    obtain ⟨sd, gd, ln, fl, he, hg⟩ := ordered_frame e s.road i .opening .toOpen
    rw [he] at hm
    exact danger_moves hm (links_same (r := s.road) rfl rfl hg hl) (danger_table rfl hp)
  | settled a b c e _ _ st hs hm =>
    exact danger_moves hm (links_same (r := s.road) rfl rfl (fun _ => rfl) hl) (danger_table rfl hp)
  | edited a b c => rw [c]; exact hp
  | commissioned a b c d f =>
    rw [f]
    exact danger_none fun i => by
      have h1 := commissioned_slots s.plan s.pins s.road (hb.1 a)
      exact h1 i
  | decommissioned a b c d f g =>
    rw [g]
    exact danger_none fun i => emptied s.road.slots i
  | ticked a b c => rw [c]; exact danger_table rfl hp
  | stopped a b c => rw [c]; exact danger_table rfl hp
  | cold a b c d f =>
    rw [f]
    exact danger_table (r := Road.cold) rfl (danger_none cold_slot)
  | warmRunning a b c e he _ hr =>
    rw [hr]
    have hm := warm_moves e s.pins s.road
    exact danger_moves hm (warm_links s.pins (he ▸ (hb.2 b).2) hl) (danger_table rfl hp)
  | warmPlanning a b c d f =>
    rw [f]
    exact danger_none fun i => (hb.1 b).slots i

/-! ### R70, R71 -/

theorem copies {q : Prop} {s s' : State} (h : Turn q s s') (hp : s.road.CopyLaw) : s'.road.CopyLaw := by
  cases h with
  | idle a b c d f => rw [f]; exact copies_table (r := s.road) rfl hp
  | move a b c e _ _ hm => exact moves (fun _ _ => Keeps.copies_move) hm hp
  | counted a b c e _ _ i x r hm _ hm' =>
    have h1 := moves (fun _ _ => Keeps.copies_move) hm hp
    exact moves (fun _ _ => Keeps.copies_move) hm' (copies_table (r := r) rfl h1)
  | released a b c e _ _ i hs _ hm =>
    obtain ⟨sd, gd, ln, fl, he, _⟩ := ordered_frame e s.road i .opening .toOpen
    rw [he] at hm
    exact moves (fun _ _ => Keeps.copies_move) hm (copies_table (r := s.road) rfl hp)
  | settled a b c e _ _ st hs hm =>
    exact moves (fun _ _ => Keeps.copies_move) hm (copies_table (r := s.road) rfl hp)
  | edited a b c => rw [c]; exact hp
  | commissioned a b c d f =>
    rw [f]
    exact moves (fun _ _ => Keeps.copies_move) (commissioned_moves s.env s.plan s.pins s.road)
      (copies_unnamed (unknown_names s.plan))
  | decommissioned a b c d f g => rw [g]; exact copies_unnamed no_names
  | ticked a b c => rw [c]; exact copies_table (r := s.road) rfl hp
  | stopped a b c => rw [c]; exact copies_unnamed no_names
  | cold a b c d f => rw [f]; exact copies_unnamed no_names
  | warmRunning a b c e _ _ hr =>
    rw [hr]
    exact moves (fun _ _ => Keeps.copies_move) (warm_moves e s.pins s.road)
      (copies_unnamed (unknown_names e.plan))
  | warmPlanning a b c d f => rw [f]; exact copies_unnamed no_names

theorem current {q : Prop} {s s' : State} (h : Turn q s s') (hp : s.road.CurrentLaw) : s'.road.CurrentLaw := by
  cases h with
  | idle a b c d f => rw [f]; exact current_table (r := s.road) rfl rfl hp
  | move a b c e _ _ hm => exact moves (fun _ _ => Keeps.current_move) hm hp
  | counted a b c e _ _ i x r hm _ hm' =>
    have h1 := moves (fun _ _ => Keeps.current_move) hm hp
    exact moves (fun _ _ => Keeps.current_move) hm' (current_table (r := r) rfl rfl h1)
  | released a b c e _ _ i hs _ hm =>
    obtain ⟨sd, gd, ln, fl, he, _⟩ := ordered_frame e s.road i .opening .toOpen
    rw [he] at hm
    exact moves (fun _ _ => Keeps.current_move) hm (current_table (r := s.road) rfl rfl hp)
  | settled a b c e _ _ st hs hm =>
    exact moves (fun _ _ => Keeps.current_move) hm (current_table (r := s.road) rfl rfl hp)
  | edited a b c => rw [c]; exact hp
  | commissioned a b c d f =>
    rw [f]
    exact moves (fun _ _ => Keeps.current_move) (commissioned_moves s.env s.plan s.pins s.road)
      (current_unnamed (unknown_names s.plan))
  | decommissioned a b c d f g => rw [g]; exact current_unnamed no_names
  | ticked a b c => rw [c]; exact current_table (r := s.road) rfl rfl hp
  | stopped a b c => rw [c]; exact current_unnamed no_names
  | cold a b c d f => rw [f]; exact current_unnamed no_names
  | warmRunning a b c e _ _ hr =>
    rw [hr]
    exact moves (fun _ _ => Keeps.current_move) (warm_moves e s.pins s.road)
      (current_unnamed (unknown_names e.plan))
  | warmPlanning a b c d f => rw [f]; exact current_unnamed no_names

/-! ### R74 -/

theorem queue_empty {r : Road} (h : r.queue = []) : r.QueueLaw := by
  refine ⟨?_, ?_, ?_, ?_⟩ <;> rw [h]
  · intro hm; cases hm
  · exact List.not_mem_nil
  · exact List.nodup_nil
  · exact List.nodup_nil

/-- A marker goes behind a queue that holds none. -/
theorem queue_marker {r : Road} (h : r.settle = none) (hq : r.QueueLaw) (st : Settle) :
    Road.QueueLaw { r with queue := r.queue ++ [.marker], settle := some st } := by
  have hn : Entry.marker ∉ r.queue := fun hm => by
    have := hq.waits hm
    rw [h] at this; cases this
  obtain ⟨h1, h2⟩ := Keeps.split_at (b := []) hn
  refine ⟨fun _ => rfl, ?_, ?_, ?_⟩
  · show Entry.marker ∉ behindMarker (r.queue ++ [.marker])
    rw [h2]; exact List.not_mem_nil
  · show (aheadOfMarker (r.queue ++ [.marker])).tail.Nodup
    rw [h1]
    have := hq.ahead
    rw [(Keeps.split_none hn).1] at this
    exact this
  · show (behindMarker (r.queue ++ [.marker])).Nodup
    rw [h2]; exact List.nodup_nil

theorem queue {q : Prop} {s s' : State} (h : Turn q s s') (hp : s.road.QueueLaw) : s'.road.QueueLaw := by
  cases h with
  | idle a b c d f => rw [f]; exact Keeps.queue_same hp rfl rfl
  | move a b c e _ _ hm => exact moves (fun _ _ => Keeps.queue_move) hm hp
  | counted a b c e _ _ i x r hm _ hm' =>
    have h1 := moves (fun _ _ => Keeps.queue_move) hm hp
    exact moves (fun _ _ => Keeps.queue_move) hm' (Keeps.queue_same (r := r) h1 rfl rfl)
  | released a b c e _ _ i hs _ hm =>
    obtain ⟨sd, gd, ln, fl, he, _⟩ := ordered_frame e s.road i .opening .toOpen
    rw [he] at hm
    exact moves (fun _ _ => Keeps.queue_move) hm (Keeps.queue_same (r := s.road) hp rfl rfl)
  | settled a b c e _ _ st hs hm =>
    exact moves (fun _ _ => Keeps.queue_move) hm (queue_marker hs hp st)
  | edited a b c => rw [c]; exact hp
  | commissioned a b c d f =>
    rw [f]
    exact moves (fun _ _ => Keeps.queue_move) (commissioned_moves s.env s.plan s.pins s.road)
      (queue_empty rfl)
  | decommissioned a b c d f g => rw [g]; exact queue_empty rfl
  | ticked a b c =>
    rw [c]
    refine ⟨fun hm => ?_, hp.single, hp.ahead, hp.behind⟩
    have h1 := hp.waits hm
    show (s.road.settle.map _).isSome = true
    rw [Option.isSome_map]; exact h1
  | stopped a b c => rw [c]; exact queue_empty rfl
  | cold a b c d f => rw [f]; exact queue_empty rfl
  | warmRunning a b c e _ _ hr =>
    rw [hr]
    exact moves (fun _ _ => Keeps.queue_move) (warm_moves e s.pins s.road) (queue_empty rfl)
  | warmPlanning a b c d f => rw [f]; exact queue_empty rfl

/-! ### The plan checks (R177) -/

theorem head_filterMap_none {α : Type} {l : List (Option α)} (h : (l.filterMap id).head? = none) :
    ∀ x ∈ l, x = none := by
  rw [List.head?_eq_none_iff, List.filterMap_eq_nil_iff] at h
  exact h

theorem firstFault_none {α β : Type} {l : List α} {f : α → Option β} (h : firstFault l f = none) :
    ∀ x ∈ l, f x = none := by
  unfold firstFault at h
  rw [List.head?_eq_none_iff, List.filterMap_eq_nil_iff] at h
  intro x hx
  simpa using h x hx

theorem numbered_none {n : Nat} {check : Nat} {cls : PlanClass} {l : List (Fin n)}
    {f : Fin n → Option (Option PlanIndex)} (h : numbered check cls l f = none) :
    ∀ x ∈ l, f x = none := by
  unfold numbered at h
  rw [Option.map_eq_none_iff] at h
  exact firstFault_none h

/-- Under the plan checks every entry gate of a section is planned (check 6). -/
theorem gate_planned {p : Plan} (hf : p.fault = none) (i : Fin 8) (x : PlanSection) (g : Fin 16)
    (hx : p.sec i = some x) (hg : g ∈ x.gates) : (p.gateUnit g).isSome = true := by
  have h1 := head_filterMap_none hf
  unfold Plan.checks at h1
  simp only [List.mem_cons, List.not_mem_nil, or_false, forall_eq_or_imp, forall_eq] at h1
  have h6 := numbered_none h1.2.2.2.2.2.1 i (by simp [allSections])
  rw [hx] at h6
  simp only [Option.bind_some, Option.map_eq_none_iff, List.find?_eq_none] at h6
  have := h6 g hg
  cases hu : p.gateUnit g <;> simp_all

/-- Under the plan checks a planned gate belongs to one section (check 8). -/
theorem gate_once {p : Plan} (hf : p.fault = none) (g : Fin 16) (hg : (p.gateUnit g).isSome = true) :
    (p.gateSections g).length ≤ 1 := by
  have h1 := head_filterMap_none hf
  unfold Plan.checks at h1
  simp only [List.mem_cons, List.not_mem_nil, or_false, forall_eq_or_imp, forall_eq] at h1
  have h8 := numbered_none h1.2.2.2.2.2.2.2.1 g (by simp [allGates])
  rw [if_pos hg, Option.map_eq_none_iff, List.head?_eq_none_iff] at h8
  have h9 := congrArg List.length h8
  rw [List.length_drop, List.length_nil] at h9
  omega

theorem gates_apart {e : Env} (hf : e.plan.fault = none) (i j : Fin 8) (g : Fin 16)
    (hi : g ∈ sectionGates e i) (hj : g ∈ sectionGates e j) : i = j := by
  have mem : ∀ k, g ∈ sectionGates e k → ∃ x, e.plan.sec k = some x ∧ g ∈ x.gates := by
    intro k hk
    unfold sectionGates at hk
    cases hx : e.plan.sec k with
    | none => rw [hx] at hk; cases hk
    | some x => rw [hx] at hk; exact ⟨x, rfl, hk⟩
  obtain ⟨x, hx, hgx⟩ := mem i hi
  obtain ⟨y, hy, hgy⟩ := mem j hj
  have h1 := gate_once hf g (gate_planned hf i x g hx hgx)
  have hmi : i ∈ e.plan.gateSections g := by
    unfold Plan.gateSections; simp [allSections, hx, hgx]
  have hmj : j ∈ e.plan.gateSections g := by
    unfold Plan.gateSections; simp [allSections, hy, hgy]
  match hl : e.plan.gateSections g, h1 with
  | [], _ => rw [hl] at hmi; cases hmi
  | [a], _ =>
    rw [hl] at hmi hmj
    rw [List.mem_singleton.mp hmi, List.mem_singleton.mp hmj]

/-! ### R114, R123 -/

theorem standing_plan {e e' : Env} {r : Road} (h : e.plan = e'.plan) (hs : r.StandingLaw e) :
    r.StandingLaw e' := by
  intro i x g z hx hg hz
  rw [← sectionGates_plan h] at hg
  exact hs i x g z hx hg hz

theorem standing_records {e : Env} {r r' : Road} (hs : r'.sections = r.sections)
    (hg : r'.gates = r.gates) (h : r.StandingLaw e) : r'.StandingLaw e := by
  unfold Road.StandingLaw Road.sec Road.gate at *
  rw [hs, hg]
  exact h

theorem standing_bare {e : Env} {r : Road} (h : ∀ i, r.sec i = none) : r.StandingLaw e := by
  intro i x g z hx
  rw [h i] at hx; cases hx

/-- Records with the same section states and the same standing orders. -/
theorem standing_states {e : Env} {r r' : Road}
    (hs : ∀ i x, r'.sec i = some x → ∃ y, r.sec i = some y ∧ y.state = x.state)
    (hg : ∀ g z, r'.gate g = some z → ∃ y, r.gate g = some y ∧ y.standing = z.standing)
    (h : r.StandingLaw e) : r'.StandingLaw e := by
  intro i x g z hx hgi hz
  obtain ⟨y, hy, hyx⟩ := hs i x hx
  obtain ⟨w, hw, hwz⟩ := hg g z hz
  rw [← hyx, ← hwz]
  exact h i y g w hy hgi hw

theorem of_map {α β γ : Type} {f : α → β} {k : α → γ} {k' : β → γ} {o : Option α} {x : β}
    (h : o.map f = some x) (hk : ∀ a, k' (f a) = k a) : ∃ y, o = some y ∧ k y = k' x := by
  obtain ⟨y, hy, rfl⟩ := Option.map_eq_some_iff.mp h
  exact ⟨y, hy, (hk y).symm⟩

theorem warm_state (p : PlanSection) (x : SectionRec) : (SectionRec.warm p x).state = x.state := by
  unfold SectionRec.warm
  split <;> rename_i h <;> simp [SectionRec.at, h]

theorem standing {q : Prop} {s s' : State} (h : Turn q s s') (hb : s.PartLaw)
    (hp : s.road.StandingLaw s.env) : s'.road.StandingLaw s'.env := by
  have run : ∀ {e : Env} {r r' : Road}, e.plan = s.plan → s'.plan = s.plan → s.part = .running →
      Road.Moves e r r' → r.StandingLaw e → r'.StandingLaw s'.env := by
    intro e r r' he hpl hrun hm hs
    have hf : e.plan.fault = none := by rw [he]; exact (hb.2 hrun).1
    exact standing_plan (e := e) (he.trans hpl.symm)
      (moves (fun _ _ h => Keeps.standing_move h (gates_apart hf)) hm hs)
  cases h with
  | idle a b c d f =>
    rw [f]
    exact standing_plan (e := s.env) a.symm (standing_records (r := s.road) rfl rfl hp)
  | move a b c e he _ hm => exact run he a c hm (standing_plan (e := s.env) he.symm hp)
  | counted a b c e he _ i x r hm _ hm' =>
    have hf : e.plan.fault = none := by rw [he]; exact (hb.2 c).1
    have h1 := moves (fun _ _ h => Keeps.standing_move h (gates_apart hf)) hm
      (standing_plan (e := s.env) he.symm hp)
    exact run he a c hm' (standing_records (r := r) rfl rfl h1)
  | released a b c e he _ i hs _ hm =>
    have hf : e.plan.fault = none := by rw [he]; exact (hb.2 c).1
    refine run he a c hm ?_
    exact Keeps.standing_order s.road i (SectionRec.at .opening) .toOpen (gates_apart hf) rfl _
      (standing_plan (e := s.env) he.symm hp)
  | settled a b c e he _ st hs hm =>
    exact run he a c hm (standing_records (r := s.road) rfl rfl
      (standing_plan (e := s.env) he.symm hp))
  | edited a b c =>
    rw [c]
    exact standing_bare (hb.1 a).sections
  | commissioned a b c d f =>
    rw [f]
    have hf : s'.env.plan.fault = none := by
      show s'.plan.fault = none
      rw [c]; exact d
    refine moves (fun _ _ h => Keeps.standing_move h (gates_apart hf))
      (commissioned_moves s'.env s.plan s.pins s.road) fun i x g z hx _ hz => ?_
    have hx : vget (vofFn _) i = some x := hx
    rw [vget_vofFn] at hx
    obtain ⟨y, _, hy⟩ := Option.map_eq_some_iff.mp hx
    have hz : vget (gateRecords s.plan (Vector.replicate 16 none)) g = some z := hz
    unfold gateRecords at hz
    rw [vget_vofFn] at hz
    split at hz
    · have hn : vget (Vector.replicate 16 (none : Option GateRec)) g = none := by
        unfold vget; simp
      rw [hn] at hz
      rw [← Option.some.inj hz, ← hy]; rfl
    · cases hz
  | decommissioned a b c d f g =>
    rw [g]
    exact standing_bare fun i => by
      show vget (Vector.replicate 8 none) i = none
      unfold vget; simp
  | ticked a b c =>
    rw [c]
    refine standing_plan (e := s.env) a.symm (standing_states (r := s.road) (fun i x hx => ?_)
      (fun g z hz => ?_) hp)
    · rw [ticked_sec] at hx; exact of_map hx fun _ => rfl
    · rw [ticked_gate] at hz; exact of_map hz fun _ => rfl
  | stopped a b c =>
    rw [c]
    refine standing_plan (e := s.env) a.symm (standing_states (r := s.road) (fun i x hx => ?_)
      (fun g z hz => ?_) hp)
    · rw [stopped_sec] at hx; exact of_map hx fun _ => rfl
    · rw [stopped_gate] at hz; exact of_map hz fun _ => rfl
  | cold a b c d f =>
    rw [f]
    exact standing_bare fun i => by
      show vget (Vector.replicate 8 none) i = none
      unfold vget; simp
  | warmRunning a b c e he _ hr =>
    rw [hr]
    refine run he a b (warm_moves e s.pins s.road) (standing_states (r := s.road) (fun i x hx => ?_)
      (fun g z hz => ?_) (standing_plan (e := s.env) he.symm hp))
    · rw [warm_sec] at hx
      obtain ⟨q, _, hx⟩ := Option.bind_eq_some_iff.mp hx
      exact of_map hx (warm_state q)
    · rw [warm_gate] at hz
      have ho := (hb.2 b).2
      rw [← he] at ho
      have h1 := gateRecords_link ho.gates g
      rw [hz] at h1
      obtain ⟨y, hy, hyz⟩ := Option.map_eq_some_iff.mp h1.symm
      exact ⟨y, hy, congrArg Prod.fst hyz⟩
  | warmPlanning a b c d f =>
    rw [f]
    exact standing_bare fun i => by
      show vget (Vector.replicate 8 none) i = none
      unfold vget; simp

/-! ### R169, R177, R178, R180 -/

theorem ofPlan_move {e : Env} {p : Plan} {r r' : Road} (h : Road.Move e r r') (ho : r.OfPlan p) :
    r'.OfPlan p := by
  have h1 := Keeps.same_move h
  exact ⟨(Keeps.reserve_eq h).trans ho.reserve, fun i => (h1.sections i).trans (ho.sections i),
    fun g => (h1.gates g).trans (ho.gates g), fun n => (h1.paths n).trans (ho.paths n)⟩

theorem ofPlan_records {p : Plan} {r r' : Road} (hv : r'.reserve = r.reserve)
    (hs : ∀ i, (r'.sec i).isSome = (r.sec i).isSome)
    (hg : ∀ g, (r'.gate g).map GateRec.planned = (r.gate g).map GateRec.planned)
    (hn : ∀ n, (r'.path n).isSome = (r.path n).isSome) (ho : r.OfPlan p) : r'.OfPlan p :=
  ⟨hv.trans ho.reserve, fun i => (hs i).trans (ho.sections i), fun g => (hg g).trans (ho.gates g),
    fun n => (hn n).trans (ho.paths n)⟩

theorem bare_idle (slots : Vector Slot 256) (fl : BitVec 14) (n fr : Nat)
    (h : ∀ i, (vget slots i).posting = none) :
    Road.Bare { Road.cold with slots := slots, flags := fl, fresh := n, freeLines := fr } := by
  refine ⟨h, rfl, rfl, rfl, fun i => ?_, fun i => ?_, fun i => ?_, fun i => ?_, fun i => ?_⟩
  · show vget (Vector.replicate 8 none) i = none
    unfold vget; simp
  · show vget (Vector.replicate 16 none) i = none
    unfold vget; simp
  · show vget (Vector.replicate 24 none) i = none
    unfold vget; simp
  · show (vget (Vector.replicate 4 Line.silent) i).inFlight = none
    unfold vget; simp [Line.silent]
  · show (vget (Vector.replicate 16 InputRec.unused) i).state = .unused
    unfold vget; simp [InputRec.unused]

theorem part {q : Prop} {s s' : State} (h : Turn q s s') (hb : s.PartLaw) : s'.PartLaw := by
  have keep : ∀ {e : Env} {r : Road}, s'.plan = s.plan → s'.part = s.part → s.part = .running →
      Road.Moves e r s'.road → r.OfPlan s.plan → s'.PartLaw := by
    intro e r hpl hpt hrun hm ho
    refine ⟨fun hp => ?_, fun _ => ?_⟩
    · rw [hpt, hrun] at hp; cases hp
    · rw [hpl]
      exact ⟨(hb.2 hrun).1, moves (fun _ _ => ofPlan_move) hm ho⟩
  have both : s'.plan = s.plan → s'.part = s.part → (s.road.Bare → s'.road.Bare) →
      (s.road.OfPlan s.plan → s'.road.OfPlan s.plan) → s'.PartLaw := by
    intro hpl hpt h1 h2
    refine ⟨fun hp => h1 (hb.1 (hpt ▸ hp)), fun hp => ?_⟩
    rw [hpl]
    exact ⟨(hb.2 (hpt ▸ hp)).1, h2 (hb.2 (hpt ▸ hp)).2⟩
  cases h with
  | idle a b c d f =>
    refine both a b (fun h => ?_) fun h => ?_
    · rw [f]; exact Turn.bare_flags h c d
    · rw [f]; exact ofPlan_records (r := s.road) rfl (fun _ => rfl) (fun _ => rfl) (fun _ => rfl) h
  | move a b c e he _ hm => exact keep a b c hm (hb.2 c).2
  | counted a b c e he _ i x r hm _ hm' =>
    exact keep a b c hm' (ofPlan_records (r := r) rfl (fun _ => rfl) (fun _ => rfl) (fun _ => rfl)
      (moves (fun _ _ => ofPlan_move) hm (hb.2 c).2))
  | released a b c e he _ i hs _ hm =>
    refine keep a b c hm ?_
    have h1 := Keeps.same_order (e := e) s.road i (SectionRec.at .opening) _ .toOpen hs
      ((s.road.setSec i (SectionRec.at .opening)).raise .sectionChange).flags
    obtain ⟨sd, gd, ln, fl, heq, _⟩ := ordered_frame e s.road i .opening .toOpen
    refine ofPlan_records (r := s.road) (by rw [heq]) ?_ ?_ ?_ (hb.2 c).2
    · exact h1.sections
    · exact h1.gates
    · exact h1.paths
  | settled a b c e he _ st hs hm =>
    exact keep a b c hm (ofPlan_records (r := s.road) rfl (fun _ => rfl) (fun _ => rfl)
      (fun _ => rfl) (hb.2 c).2)
  | edited a b c =>
    refine ⟨fun _ => ?_, fun hp => ?_⟩
    · rw [c]; exact hb.1 a
    · rw [b] at hp; cases hp
  | commissioned a b c d f =>
    refine ⟨fun hp => ?_, fun _ => ?_⟩
    · rw [b] at hp; cases hp
    · rw [c, f]
      refine ⟨d, moves (fun _ _ => ofPlan_move) (commissioned_moves s.env s.plan s.pins s.road)
        ⟨rfl, fun i => ?_, fun g => gateRecords_place _ _ g, fun n => ?_⟩⟩
      · show Option.isSome (vget (vofFn _) i) = _
        rw [vget_vofFn, Option.isSome_map]
      · show Option.isSome (vget (vofFn _) n) = _
        rw [vget_vofFn, Option.isSome_map]
  | decommissioned a b c d f g =>
    refine ⟨fun _ => ?_, fun hp => ?_⟩
    · rw [g]; exact bare_idle _ _ _ _ (emptied s.road.slots)
    · rw [b] at hp; cases hp
  | ticked a b c =>
    refine both a b (fun h => ?_) fun h => ?_
    · rw [c]
      refine ⟨h.slots, h.reserve, h.queue, ?_, fun i => ?_, fun i => ?_, fun i => ?_, fun i => ?_,
        fun i => ?_⟩
      · show s.road.settle.map _ = none
        rw [h.settle]; rfl
      · rw [ticked_sec, h.sections]; rfl
      · rw [ticked_gate, h.gates]; rfl
      · rw [ticked_path, h.paths]; rfl
      · rw [ticked_line]
        show (s.road.line i).inFlight.map _ = none
        rw [h.lines]; rfl
      · rw [ticked_input]; exact h.inputs i
    · rw [c]
      refine ofPlan_records (r := s.road) rfl (fun i => ?_) (fun i => ?_) (fun i => ?_) h
      · rw [ticked_sec, Option.isSome_map]
      · rw [ticked_gate]; exact map_map_link _ fun _ => rfl
      · rw [ticked_path, Option.isSome_map]
  | stopped a b c =>
    refine both a b (fun h => ?_) fun h => ?_
    · rw [c]
      refine ⟨h.slots, h.reserve, rfl, rfl, fun i => ?_, fun i => ?_, fun i => ?_, fun i => ?_,
        fun i => ?_⟩
      · rw [stopped_sec, h.sections]; rfl
      · rw [stopped_gate, h.gates]; rfl
      · rw [stopped_path, h.paths]; rfl
      · show (vget (Vector.replicate 4 Line.silent) i).inFlight = none
        unfold vget; simp [Line.silent]
      · show (vget (Vector.replicate 16 InputRec.unused) i).state = .unused
        unfold vget; simp [InputRec.unused]
    · rw [c]
      refine ofPlan_records (r := s.road) rfl (fun i => ?_) (fun i => ?_) (fun i => ?_) h
      · rw [stopped_sec, Option.isSome_map]
      · rw [stopped_gate]; exact map_map_link _ fun _ => rfl
      · rw [stopped_path, Option.isSome_map]
  | cold a b c d f =>
    refine ⟨fun _ => ?_, fun hp => ?_⟩
    · rw [f]; exact bare_idle _ _ _ _ cold_slot
    · rw [a] at hp; cases hp
  | warmRunning a b c e he _ hr =>
    have ho := (hb.2 b).2
    refine ⟨fun hp => ?_, fun _ => ?_⟩
    · rw [c] at hp; cases hp
    · rw [a, hr, ← he]
      rw [← he] at ho
      have hf : e.plan.fault = none := by rw [he]; exact (hb.2 b).1
      refine ⟨hf, moves (fun _ _ => ofPlan_move) (warm_moves e s.pins s.road)
        ⟨ho.reserve, fun i => ?_, fun g => ?_, fun n => ?_⟩⟩
      · rw [warm_sec]
        have h1 := ho.sections i
        cases h2 : e.plan.sec i with
        | none => rfl
        | some x =>
          rw [h2] at h1
          simp only [Option.bind_some, Option.isSome_map]
          exact h1
      · rw [warm_gate]; exact gateRecords_place _ _ g
      · rw [warm_path]
        have h1 := ho.paths n
        cases h2 : e.plan.path n with
        | none => rfl
        | some x =>
          rw [h2] at h1
          simp only [Option.bind_some, Option.isSome_map]
          exact h1
  | warmPlanning a b c d f =>
    have h1 := hb.1 b
    refine ⟨fun _ => ?_, fun hp => ?_⟩
    · rw [f]
      have h2 := bare_idle s.road.slots d s.road.fresh s.road.freeLines h1.slots
      exact ⟨h2.slots, h1.reserve, h2.queue, h2.settle, h2.sections, h2.gates, h2.paths, h2.lines,
        h2.inputs⟩
    · rw [c] at hp; cases hp

/-! ### What a turn may do to a section and to a pinned posting -/

theorem occ_moves {e : Env} {r r' : Road} (h : Road.Moves e r r') : r'.occ = r.occ := by
  induction h with
  | refl => rfl
  | tail _ hs ih => exact (Keeps.occ_eq hs).trans ih

/-- A run of moves leaves SWEEP only at the occupancy KNOWN zero that it keeps. -/
theorem sweep_moves {e : Env} {r r' : Road} (h : Road.Moves e r r') (i : Fin 8)
    (hs : r.secState i = some .sweep) :
    r'.secState i = some .sweep ∨ r'.occOf i = some (.known 0) := by
  induction h with
  | refl => exact .inl hs
  | tail _ hm ih =>
    rcases ih with ih | ih
    · exact (Keeps.sec_move hm i).1 ih
    · right
      unfold Road.occOf at *
      rw [Keeps.occ_eq hm]; exact ih

theorem opening_moves {e : Env} {r r' : Road} (h : Road.Moves e r r') (i : Fin 8)
    (hs : r'.secState i = some .opening) : r.secState i = some .opening := by
  induction h with
  | refl => exact hs
  | tail _ hm ih => exact ih ((Keeps.sec_move hm i).2 hs)

theorem pinned_moves {e : Env} {r r' : Road} (h : Road.Moves e r r') (hl : r.LinkLaw)
    (i : Fin 256) (g : BitVec 4) (t : Nat) (ht : e.now < t) (hp : Pinned r i g t) :
    Pinned r' i g t :=
  (moves (P := fun r => r.LinkLaw ∧ Pinned r i g t)
    (fun _ _ h hp => ⟨Keeps.link_move h hp.1, Keeps.pinned_move h hp.1 i g t ht hp.2⟩) h ⟨hl, hp⟩).2

theorem state_sections {r r' : Road} (h : r'.sections = r.sections) (i : Fin 8) :
    r'.secState i = r.secState i := by
  unfold Road.secState Road.sec
  rw [h]

theorem state_none {r : Road} (h : ∀ i, r.sec i = none) (i : Fin 8) : r.secState i = none := by
  unfold Road.secState
  rw [h i]; rfl

/-- The section states after an order to one section. -/
theorem ordered_state (e : Env) (r : Road) (i : Fin 8) (st : SecState) (d : Order) (j : Fin 8) :
    (r.ordered e i st d).secState j = if i = j then some st else r.secState j := by
  obtain ⟨gd, ln, fl', he, _⟩ := order_frame d (sectionGates e i) (r.enter i st)
  unfold Road.ordered
  rw [he]
  show ((r.setSec i _).sec j).map _ = _
  rw [sec_setSec]
  split <;> rfl

theorem ticked_state (r : Road) (i : Fin 8) : r.ticked.secState i = r.secState i := by
  unfold Road.secState
  rw [ticked_sec]
  exact map_map_link _ fun _ => rfl

theorem stopped_state (r : Road) (i : Fin 8) : r.stopped.secState i = r.secState i := by
  unfold Road.secState
  rw [stopped_sec]
  exact map_map_link _ fun _ => rfl

theorem warm_secState {p : Plan} {r : Road} (pins : Vector Level 16) (ho : r.OfPlan p) (i : Fin 8) :
    (r.warmRecords p pins).secState i = r.secState i := by
  unfold Road.secState
  rw [warm_sec]
  have h1 := ho.sections i
  cases h2 : p.sec i with
  | none => rw [h2] at h1; simp at h1; rw [h1]; rfl
  | some x => exact map_map_link _ (warm_state x)

theorem idle_sec (i : Fin 8) : Road.cold.sec i = none := by
  unfold Road.cold Road.sec vget; simp

/-- SWEEP is left only at occupancy KNOWN zero, or by a cold start (R122). -/
theorem sweep {q : Prop} {s s' : State} (h : Turn q s s') (hb : s.PartLaw) (i : Fin 8)
    (hs : s.road.secState i = some .sweep) : s'.road.secState i = some .sweep ∨
      s'.road.occOf i = some (.known 0) ∨ s'.cru.timeValid = false := by
  have bare : s.part = .planning → False := fun hp => by
    rw [state_none (hb.1 hp).sections] at hs; cases hs
  cases h with
  | idle a b c d f =>
    rw [f]; exact .inl ((state_sections (r := s.road) rfl i).trans hs)
  | move a b c e _ _ hm => exact (sweep_moves hm i hs).imp id .inl
  | counted a b c e _ _ j x r hm hsec hm' =>
    refine (sweep_moves hm' i ?_).imp id .inl
    exact ((state_sections (r := r) rfl i).trans (state_sections hsec i)).trans hs
  | released a b c e _ _ j hc _ hm =>
    refine (sweep_moves hm i ?_).imp id .inl
    rw [ordered_state, if_neg]
    · exact hs
    · rintro rfl
      rw [hs] at hc; cases hc
  | settled a b c e _ _ st _ hm =>
    exact (sweep_moves hm i ((state_sections (r := s.road) rfl i).trans hs)).imp id .inl
  | edited a b c => exact (bare a).elim
  | commissioned a b c d f => exact (bare a).elim
  | decommissioned a b c d f g =>
    unfold State.blocked at d
    dsimp only at d
    split at d
    · cases d
    · rename_i hn
      have h1 := firstFault_none hn i (by simp [allSections])
      rw [hs] at h1
      cases h1
  | ticked a b c => rw [c, ticked_state]; exact .inl hs
  | stopped a b c => rw [c, stopped_state]; exact .inl hs
  | cold a b c d f => exact .inr (.inr b)
  | warmRunning a b c e he _ hr =>
    rw [hr]
    have ho := (hb.2 b).2
    rw [← he] at ho
    exact (sweep_moves (warm_moves e s.pins s.road) i ((warm_secState s.pins ho i).trans hs)).imp
      id .inl
  | warmPlanning a b c d f => exact (bare b).elim

/-- OPENING is entered only from CLEARABLE, where the command may be RELEASE_SECTION (R123). -/
theorem opening {q : Prop} {s s' : State} (h : Turn q s s') (hb : s.PartLaw) (i : Fin 8)
    (hs : s'.road.secState i = some .opening) :
    s.road.secState i = some .opening ∨ q ∧ s.road.secState i = some .clearable := by
  have cold : ∀ r : Road, r.sections = Road.cold.sections → r.secState i ≠ some .opening := by
    intro r hr ho
    rw [state_sections hr i, state_none idle_sec] at ho; cases ho
  cases h with
  | idle a b c d f =>
    rw [f] at hs; exact .inl ((state_sections (r := s.road) rfl i).symm.trans hs)
  | move a b c e _ _ hm => exact .inl (opening_moves hm i hs)
  | counted a b c e _ _ j x r hm hsec hm' =>
    have h1 := opening_moves hm' i hs
    exact .inl (((state_sections (r := r) rfl i).trans (state_sections hsec i)).symm.trans h1)
  | released a b c e _ _ j hc hq hm =>
    have h1 := opening_moves hm i hs
    rw [ordered_state] at h1
    split at h1
    · rename_i hij
      subst hij
      exact .inr ⟨hq, hc⟩
    · exact .inl h1
  | settled a b c e _ _ st _ hm =>
    exact .inl ((state_sections (r := s.road) rfl i).symm.trans (opening_moves hm i hs))
  | edited a b c => rw [c] at hs; exact .inl hs
  | commissioned a b c d f =>
    rw [f] at hs
    have h1 := opening_moves (commissioned_moves s.env s.plan s.pins s.road) i hs
    unfold Road.secState Road.sec at h1
    dsimp only at h1
    rw [vget_vofFn] at h1
    cases h2 : s.plan.sec i with
    | none => rw [h2] at h1; cases h1
    | some x => rw [h2] at h1; cases h1
  | decommissioned a b c d f g => rw [g] at hs; exact (cold _ rfl hs).elim
  | ticked a b c => rw [c, ticked_state] at hs; exact .inl hs
  | stopped a b c => rw [c, stopped_state] at hs; exact .inl hs
  | cold a b c d f => rw [f] at hs; exact (cold _ rfl hs).elim
  | warmRunning a b c e he _ hr =>
    rw [hr] at hs
    have ho := (hb.2 b).2
    rw [← he] at ho
    have h1 := opening_moves (warm_moves e s.pins s.road) i hs
    exact .inl ((warm_secState s.pins ho i).symm.trans h1)
  | warmPlanning a b c d f => rw [f] at hs; exact (cold _ rfl hs).elim

theorem pinned_slots {r r' : Road} (h : r'.slots = r.slots) {i : Fin 256} {g : BitVec 4} {t : Nat}
    (hp : Pinned r i g t) : Pinned r' i g t := by
  unfold Pinned Road.slot at *
  rw [h]; exact hp

/-- An ACTIVE posting whose pin lies after the new pass time stays, but for a cold start (R12). -/
theorem pinned {q : Prop} {s s' : State} (h : Turn q s s') (hb : s.PartLaw) (hl : s.road.LinkLaw)
    (i : Fin 256) (g : BitVec 4) (t : Nat) (ht : s'.cru.passTime < t)
    (hp : Pinned s.road i g t) :
    Pinned s'.road i g t ∨ s'.cru.timeValid = false := by
  cases h with
  | idle a b c d f => rw [f]; exact .inl (pinned_slots (r := s.road) rfl hp)
  | move a b c e _ hn hm => exact .inl (pinned_moves hm hl i g t (by rw [hn]; exact ht) hp)
  | counted a b c e _ hn j x r hm hsec hm' =>
    have hn : e.now < t := by rw [hn]; exact ht
    have h1 := pinned_moves hm hl i g t hn hp
    have h2 := moves (fun _ _ => Keeps.link_move) hm hl
    exact .inl (pinned_moves hm' (links_same (r := r) rfl rfl (fun _ => rfl) h2) i g t hn
      (pinned_slots (r := r) rfl h1))
  | released a b c e _ hn j hc hq hm =>
    obtain ⟨sd, gd, ln, fl, he, hg⟩ := ordered_frame e s.road j .opening .toOpen
    rw [he] at hm
    exact .inl (pinned_moves hm (links_same (r := s.road) rfl rfl hg hl) i g t (by rw [hn]; exact ht)
      (pinned_slots (r := s.road) rfl hp))
  | settled a b c e _ hn st _ hm =>
    exact .inl (pinned_moves hm (links_same (r := s.road) rfl rfl (fun _ => rfl) hl) i g t
      (by rw [hn]; exact ht) (pinned_slots (r := s.road) rfl hp))
  | edited a b c => rw [c]; exact .inl hp
  | commissioned a b c d f =>
    obtain ⟨_, p, _, hpost, _⟩ := hp
    rw [(hb.1 a).slots i] at hpost; cases hpost
  | decommissioned a b c d f g' =>
    obtain ⟨_, p, t', hpost, _, hpin, hle⟩ := hp
    unfold State.blocked at d
    dsimp only at d
    split at d
    · cases d
    · split at d
      · cases d
      · rw [Option.map_eq_none_iff] at d
        have h1 := firstFault_none d i (by simp [allSlots])
        rw [hpost] at h1
        simp only [Option.bind_some, hpin, Option.filter_some] at h1
        rw [f] at ht
        rw [if_pos (by simpa using by omega)] at h1
        cases h1
  | ticked a b c => rw [c]; exact .inl (pinned_slots (r := s.road) rfl hp)
  | stopped a b c => rw [c]; exact .inl (pinned_slots (r := s.road) rfl hp)
  | cold a b c d f => exact .inr b
  | warmRunning a b c e he hn hr =>
    rw [hr]
    have ho := (hb.2 b).2
    rw [← he] at ho
    exact .inl (pinned_moves (warm_moves e s.pins s.road) (warm_links s.pins ho hl) i g t
      (by rw [hn]; exact ht) (pinned_slots (r := s.road) rfl hp))
  | warmPlanning a b c d f => rw [f]; exact .inl (pinned_slots (r := s.road) rfl hp)

end Lawful

end Sys2Proof.Machine
end

