-- ==== Sys2Proof/Laws/Notices.lean ====
section
/-! SUPPORT. What Section Control's operations can change, and that a distribution queue whose head
stands only grows at its tail through an event's appends and notices. -/

namespace Sys2Proof.Machine.Notices

variable {e : Env}

/-! ### Section Control changes sections, gates, gate orders and flags alone -/

/-- Two roads differ in sections, gates, lines and flags alone. -/
def SectionsOnly (r r' : Road) : Prop :=
  ∃ sections gates lines flags,
    r' = { r with sections := sections, gates := gates, lines := lines, flags := flags }

namespace SectionsOnly

theorem refl (r : Road) : SectionsOnly r r := ⟨_, _, _, _, rfl⟩

theorem trans {a b c : Road} (h : SectionsOnly a b) (h' : SectionsOnly b c) : SectionsOnly a c := by
  obtain ⟨_, _, _, _, rfl⟩ := h
  obtain ⟨_, _, _, _, rfl⟩ := h'
  exact ⟨_, _, _, _, rfl⟩

theorem foldl {α : Type} (f : Road → α → Road) (hf : ∀ r a, SectionsOnly r (f r a)) :
    ∀ (l : List α) (r : Road), SectionsOnly r (l.foldl f r)
  | [], r => refl r
  | a :: l, r => trans (hf r a) (foldl f hf l (f r a))

theorem raise (f : Flag) (r : Road) : SectionsOnly r (r.raise f) := ⟨_, _, _, _, rfl⟩

theorem setSec (i : Fin 8) (x : SectionRec) (r : Road) : SectionsOnly r (r.setSec i x) :=
  ⟨_, _, _, _, rfl⟩

theorem setGate (g : Fin 16) (x : GateRec) (r : Road) : SectionsOnly r (r.setGate g x) :=
  ⟨_, _, _, _, rfl⟩

theorem setStanding (d : Order) (r : Road) (g : Fin 16) : SectionsOnly r (r.setStanding d g) := by
  obtain ⟨gates, lines, flags, h, -⟩ := setStanding_frame d r g
  exact ⟨_, gates, lines, flags, h⟩

theorem enter (i : Fin 8) (st : SecState) (r : Road) : SectionsOnly r (r.enter i st) :=
  trans (setSec i _ r) (raise _ _)

theorem sweepTest (i : Fin 8) (r : Road) : SectionsOnly r (r.sweepTest e i) := by
  unfold Road.sweepTest
  split
  · split
    · exact enter _ _ _
    · exact refl r
  · exact refl r

theorem enterSweep (i : Fin 8) (r : Road) : SectionsOnly r (r.enterSweep e i) :=
  trans (trans (setSec i _ r) (raise _ _)) (sweepTest i _)

theorem gateTest (i : Fin 8) (r : Road) : SectionsOnly r (r.gateTest e i) := by
  unfold Road.gateTest
  split
  · split
    · exact enterSweep _ _
    · exact refl r
  · split
    · exact enter _ _ _
    · exact refl r
  · exact refl r

theorem enterShutting (i : Fin 8) (r : Road) : SectionsOnly r (r.enterShutting e i) :=
  trans (trans (enter i _ r) (foldl _ (setStanding _) _ _)) (gateTest i _)

theorem release (i : Fin 8) (r : Road) : SectionsOnly r (r.release e i) :=
  trans (trans (enter i _ r) (foldl _ (setStanding _) _ _)) (gateTest i _)

theorem readyTest (i : Fin 8) (r : Road) : SectionsOnly r (r.readyTest e i) := by
  unfold Road.readyTest
  split
  · split
    · exact enterShutting _ _
    · exact refl r
  · exact refl r

theorem readyTests (r : Road) : SectionsOnly r (r.readyTests e) :=
  foldl _ (fun r i => readyTest i r) _ _

theorem leadRun (i : Fin 8) (r : Road) : SectionsOnly r (r.leadRun e i) := by
  unfold Road.leadRun
  split
  · exact enterShutting _ _
  · exact refl r

theorem enterNotice (i : Fin 8) (r : Road) : SectionsOnly r (r.enterNotice e i) := by
  have h := fun x => trans (setSec i x r) (raise .sectionChange _)
  unfold Road.enterNotice
  dsimp only
  split
  · exact trans (h _) (leadRun i _)
  · exact h _

theorem coverageOf (r : Road) (i : Fin 8) : SectionsOnly r (r.coverageOf e i) := by
  unfold Road.coverageOf
  repeat' split
  all_goals first
    | exact refl r
    | exact enter _ _ _
    | exact enterShutting _ _
    | exact enterNotice _ _
    | exact readyTest _ _

theorem coverageNoticeTo (f : PlanSection → Bool) (r : Road) :
    SectionsOnly r (r.coverageNoticeTo e f) :=
  foldl _ (fun r i => by
    split
    · exact coverageOf r i
    · exact refl r) _ _

theorem coverageNotice (a b : Nat) (r : Road) : SectionsOnly r (r.coverageNotice e a b) :=
  coverageNoticeTo _ r

end SectionsOnly

/-! ### A standing queue -/

/-- The queue is not empty, and its head waits for a transfer. -/
def Standing (r : Road) : Prop := r.queue ≠ [] ∧ ∀ e, headStep e r = none

/-- Whether the head waits depends on the queue's head and its work alone. -/
theorem standing_of {r : Road} (hq : r.queue ≠ []) (h : headStep e r = none) : Standing r := by
  refine ⟨hq, fun e' => ?_⟩
  unfold headStep at h ⊢
  revert h
  cases hr : r.queue with
  | nil => exact absurd hr hq
  | cons en q =>
    cases en <;> cases hw : r.work <;> simp only [] <;> intro h
    all_goals first
      | (split at h <;> simp_all)
      | simp_all

/-- The queue of a later road begins with the queue of an earlier one, and the head's work is the
same. -/
def Grows (r r' : Road) : Prop := r.queue <+: r'.queue ∧ r'.work = r.work

namespace Grows

theorem refl (r : Road) : Grows r r := ⟨List.prefix_rfl, rfl⟩

theorem trans {a b c : Road} (h : Grows a b) (h' : Grows b c) : Grows a c :=
  ⟨h.1.trans h'.1, h'.2.trans h.2⟩

/-- An event that touches neither the queue nor the head's work. -/
theorem same {r r' : Road} (hq : r'.queue = r.queue) (hw : r'.work = r.work) : Grows r r' :=
  ⟨by rw [hq], hw⟩

/-- A standing queue that grows still stands. -/
theorem standing {r r' : Road} (h : Standing r) (hg : Grows r r') : Standing r' := by
  obtain ⟨t, ht⟩ := hg.1
  have hne : r'.queue ≠ [] := by
    rw [← ht]
    simp [h.1]
  refine ⟨hne, fun e => ?_⟩
  have h1 := h.2 e
  unfold headStep at h1 ⊢
  rw [← ht, hg.2]
  revert h1
  cases hr : r.queue with
  | nil => exact absurd hr h.1
  | cons en q =>
    cases en <;> cases hw : r.work <;> simp only [List.cons_append] <;> intro h1
    all_goals first
      | (split at h1 <;> simp_all)
      | simp_all

theorem sections {r r' : Road} (h : SectionsOnly r r') : Grows r r' := by
  obtain ⟨_, _, _, _, rfl⟩ := h
  exact refl r

/-- A standing queue is carried no further. -/
theorem pump {r : Road} (h : Standing r) : r.pump e = r := by
  unfold Road.pump
  unfold advance
  rw [h.2 e]

/-- An append to a standing queue coalesces or takes the tail (R75). -/
theorem append {r : Road} (h : Standing r) (en : Entry) : Grows r (r.append e en) := by
  unfold Road.append
  split
  · exact refl r
  · have hg : Grows r { r with queue := r.queue ++ [en] } := ⟨List.prefix_append _ _, rfl⟩
    rw [pump (standing h hg)]
    exact hg

theorem markAndQueue {r : Road} (h : Standing r) (x : Handle) (o : Bool) :
    Grows r (r.markAndQueue e x o) := by
  have hg : Grows r (r.markCopies x o) := same rfl rfl
  exact trans hg (append (standing h hg) _)

theorem revive {r : Road} (h : Standing r) (i : Fin 256) (pin : Option Nat) :
    Grows r (r.revive e i pin) := by
  unfold Road.revive
  split
  · exact refl r
  · rename_i p _
    have hg : Grows r ((r.setPosting i
        { p with state := .active, cause := none, pin := pin }).bumpVersion i) := same rfl rfl
    exact trans (trans hg (markAndQueue (standing h hg) _ _))
      (sections (SectionsOnly.coverageNotice _ _ _))

theorem createClosure {r : Road} (h : Standing r) (p : Posting) (link : Handle → Road → Road)
    (hl : ∀ x r, Grows r (link x r)) : Grows r (r.createClosure e p link) := by
  unfold Road.createClosure
  split
  · exact refl r
  · rename_i i _
    have hg : Grows r (link ((r.occupy i p).handleAt i) (r.occupy i p)) :=
      trans (b := r.occupy i p) (same rfl rfl) (hl _ _)
    exact trans (trans hg (append (standing h hg) _))
      (sections (SectionsOnly.coverageNotice _ _ _))

theorem linkPath (p : Fin 24) (x : Handle) (r : Road) : Grows r (r.linkPath p x) := by
  unfold Road.linkPath
  split
  · exact refl r
  · exact same rfl rfl

theorem autoClosure {r : Road} (h : Standing r) (p : Fin 24) : Grows r (r.autoClosure e p) := by
  unfold Road.autoClosure
  split
  · rename_i pl x _ _
    have hg : Grows r (r.pinAfter e pl.hold).2 := by
      unfold Road.pinAfter
      split
      · exact refl r
      · exact same rfl rfl
    have hs := standing h hg
    dsimp only
    repeat' split
    all_goals first
      | exact trans hg (revive hs _ _)
      | exact trans hg (same rfl rfl)
      | exact trans hg (createClosure hs _ _ (linkPath p))
  · exact refl r

theorem autoAction {r : Road} (h : Standing r) (c : AutoCause) (p : Fin 24) :
    Grows r (r.autoAction e c p) := by
  have hg := autoClosure (e := e) h p
  unfold Road.autoAction
  dsimp only
  split
  · exact hg
  · exact trans hg (same rfl rfl)

theorem tripTest {r : Road} (h : Standing r) (p : Fin 24) : Grows r (r.tripTest e p) := by
  unfold Road.tripTest
  split
  · exact refl r
  · dsimp only
    split
    · have h0 : Grows r (r.raise .pathTrip) := same rfl rfl
      have hg := trans h0 (autoAction (e := e) (standing h h0) .trip p)
      split
      · exact hg
      · exact trans hg (same rfl rfl)
    · exact refl r

theorem dangerNotice {r : Road} (h : Standing r) (p : Fin 24) : Grows r (r.dangerNotice e p) := by
  unfold Road.dangerNotice
  split
  · exact refl r
  · rename_i x _
    dsimp only
    split
    · exact refl r
    · have hg : Grows r (r.setPath p { x with level := r.tableLevel p }) := same rfl rfl
      have hs := standing h hg
      repeat' split
      all_goals first
        | exact hg
        | exact trans hg (tripTest hs _)
        | exact trans hg (autoAction hs _ _)

theorem notices {r : Road} (h : Standing r) (p : Posting) : Grows r (r.notices e p) := by
  unfold Road.notices
  repeat' split
  all_goals first
    | exact refl r
    | exact sections (SectionsOnly.coverageNotice _ _ _)
    | exact dangerNotice h _

end Grows

end Sys2Proof.Machine.Notices
end

