-- ==== Sys2Proof/Laws/Ports.lean ====
section
/-! SUPPORT. The clock law and the port law: what each command does to the clock, the supply and the
station port. -/

namespace Sys2Proof.Machine

namespace Ports

/-! ### The bounds that request bodies carry -/

theorem beNat_lt (a b c d : Byte) : beNat [a, b, c, d] < 4294967296 := by
  have h1 := a.isLt
  have h2 := b.isLt
  have h3 := c.isLt
  have h4 := d.isLt
  unfold beNat
  simp only [List.foldl_cons, List.foldl_nil]
  omega

theorem num4_bound {body : List Byte} {t : Nat} (h : readBody num4 body = some t) :
    t ≤ Config.maxPassTime := by
  unfold readBody at h
  split at h
  · split at h
    · rename_i x hx
      cases h
      match body, hx with
      | a :: b :: c :: d :: l, hx =>
        have := beNat_lt a b c d
        have hx : (some (beNat [a, b, c, d], l) : Option (Nat × List Byte)) = some (t, []) := hx
        cases hx
        unfold Config.maxPassTime
        omega
    · cases h
  · cases h

theorem attend_bound {body : List Byte} {n : Nat} (h : readBody attendBody body = some n) :
    n = 0 ∨ 10 ≤ n ∧ n ≤ 3600 := by
  unfold readBody at h
  split at h
  · split at h
    · rename_i x hx
      cases h
      match body, hx with
      | a :: b :: l, hx =>
        by_cases hb : beNat [a, b] = 0 ∨ 10 ≤ beNat [a, b] ∧ beNat [a, b] ≤ 3600
        · have hx : ((must (decide (beNat [a, b] = 0 ∨ 10 ≤ beNat [a, b] ∧ beNat [a, b] ≤ 3600)) l).bind
            fun y => some (beNat [a, b], y.2)) = some (n, []) := hx
          unfold must at hx
          rw [if_pos (by simpa using hb)] at hx
          cases hx
          exact hb
        · have hx : ((must (decide (beNat [a, b] = 0 ∨ 10 ≤ beNat [a, b] ∧ beNat [a, b] ≤ 3600)) l).bind
            fun y => some (beNat [a, b], y.2)) = some (n, []) := hx
          unfold must at hx
          rw [if_neg (by simpa using hb)] at hx
          cases hx
    · cases h
  · cases h

/-! ### The clock law -/

/-- The clock stands, and RUNNING is entered with a valid time alone. -/
def Calm (s s' : State) : Prop :=
  s'.cru = s.cru ∧ (s'.part = .running → s.part = .running ∨ s.cru.timeValid = true)

theorem calm_same {s s' : State} (h : s'.cru = s.cru) (hp : s'.part = s.part) : Calm s s' :=
  ⟨h, fun hr => .inl (hp ▸ hr)⟩

theorem Calm.clock {s s' : State} (h : Calm s s') (hc : s.ClockLaw) : s'.ClockLaw := by
  obtain ⟨h1, h2⟩ := h
  unfold State.ClockLaw at *
  rw [h1]
  exact ⟨hc.1, hc.2.1, hc.2.2.1, hc.2.2.2.1, fun hr => (h2 hr).elim hc.2.2.2.2 id⟩

theorem calm_request {code : Byte} {sent : Shifted} {run : Handler} {s s' : State}
    (hrun : ∀ t : State, t.cru = s.cru → t.part = s.part → Calm t (run t).1)
    (h : Machine.request code sent run s = .next s') : Calm s s' := by
  unfold Machine.request at h
  cases h
  split
  · have h1 := hrun ((s.shiftOut (s.idleBytes (sent.bytes.length + 4) sent.begunBusy)).receive code sent.bytes) rfl rfl
    unfold State.answer
    generalize run ((s.shiftOut (s.idleBytes (sent.bytes.length + 4) sent.begunBusy)).receive code sent.bytes) = x at h1 ⊢
    split
    · exact h1
    · exact h1
  · exact calm_same rfl rfl

theorem calm_inPart {part : PartState} {f : Handler} {t : State}
    (h : t.part = part → Calm t (f t).1) : Calm t (Machine.inPart part f t).1 := by
  unfold Machine.inPart
  split
  · rename_i hp; exact h hp
  · exact calm_same rfl rfl

theorem calm_body {α : Type} {p : Parse α} {body : List Byte}
    {f : α → State → State × Option Reply} {t : State}
    (h : ∀ x, readBody p body = some x → Calm t (f x t).1) :
    Calm t (Machine.withBody p body f t).1 := by
  unfold Machine.withBody
  split
  · rename_i x hx; exact h x hx
  · exact calm_same rfl rfl

theorem calm_readsIn {α : Type} {p : Parse α} {code : Byte} {sent : Shifted} {part : PartState}
    {f : State → α → Reply} {s s' : State}
    (h : Machine.request code sent
      (Machine.inPart part (Machine.withBody p sent.bytes (Machine.reads f))) s = .next s') : Calm s s' :=
  calm_request (fun _ _ _ => calm_inPart fun _ => calm_body fun _ _ => calm_same rfl rfl) h

theorem calm_reads {α : Type} {p : Parse α} {code : Byte} {sent : Shifted}
    {f : State → α → Reply} {s s' : State}
    (h : Machine.request code sent (Machine.withBody p sent.bytes (Machine.reads f)) s = .next s') :
    Calm s s' :=
  calm_request (fun _ _ _ => calm_body fun _ _ => calm_same rfl rfl) h

theorem calm_actsIn {α : Type} {p : Parse α} {code : Byte} {sent : Shifted} {part : PartState}
    {f : Env → α → Road → Road × Reply} {s s' : State}
    (h : Machine.request code sent
      (Machine.inPart part (Machine.withBody p sent.bytes (Machine.acts f))) s = .next s') : Calm s s' :=
  calm_request (fun _ _ _ => calm_inPart fun _ => calm_body fun _ _ => calm_same rfl rfl) h

theorem calm_editsIn {α : Type} {p : Parse α} {code : Byte} {sent : Shifted} {part : PartState}
    {f : α → Plan → Plan} {s s' : State}
    (h : Machine.request code sent
      (Machine.inPart part (Machine.withBody p sent.bytes (Machine.edits f))) s = .next s') : Calm s s' :=
  calm_request (fun _ _ _ => calm_inPart fun _ => calm_body fun _ _ => calm_same rfl rfl) h

theorem hand_cru (s : State) (r : Road) : (s.hand r).cru = s.cru ∧ (s.hand r).part = s.part :=
  ⟨(Turn.hand_road s r).2.2.2.1, (Turn.hand_road s r).2.2.1⟩

theorem calm_onRoad {f : Env → Road → Road} {s t s' : State} (hc : t.cru = s.cru)
    (hp : t.part = s.part) (h : Machine.onRoad f t = .next s') : Calm s s' := by
  unfold Machine.onRoad at h
  cases h
  split
  · obtain ⟨h1, h2⟩ := hand_cru t (f t.env t.road)
    exact calm_same (h1.trans hc) (h2.trans hp)
  · exact calm_same hc hp

theorem calm_event {c : Instr} {f : Env → Road → Road} {s t s' : State}
    (he : Machine.exec c s = Machine.onRoad f t) (hc : t.cru = s.cru) (hp : t.part = s.part)
    (h : Machine.exec c s = .next s') : Calm s s' := calm_onRoad hc hp (he.symm.trans h)

theorem passTimeEvent_cru (s : State) :
    s.passTimeEvent.cru = s.cru ∧ s.passTimeEvent.part = s.part := by
  unfold State.passTimeEvent
  split
  · exact hand_cru _ _
  · exact ⟨rfl, rfl⟩

/-- The clock law of a start: the blocks work, with the check word good. -/
theorem clock_start (c : StartCause) (s : State) (x : Cru) (hm : x.mains = true)
    (hp : x.pinHeld = false) (ht : x.passTime ≤ Config.maxPassTime) (hf : x.phase < 1000)
    (hv : s.part = .running → x.timeValid = true) :
    State.ClockLaw (State.start c { s with cru := x }) := by
  unfold State.start
  split
  · rename_i hi
    unfold State.warmStart
    exact ⟨⟨fun _ => ⟨hm, hp⟩, fun _ => rfl⟩, ht, hf, fun _ => hi, hv⟩
  · unfold State.coldStart
    refine ⟨⟨fun _ => ⟨hm, hp⟩, fun _ => rfl⟩, Nat.zero_le _, hf, fun _ => rfl, fun h => ?_⟩
    cases h

theorem clock_exec (c : Instr) (s s' : State) (hc : s.ClockLaw) (h : Machine.exec c s = .next s') :
    s'.ClockLaw := by
  cases c with
  | post sent => exact (calm_actsIn h).clock hc
  | change sent => exact (calm_actsIn h).clock hc
  | retire sent => exact (calm_actsIn h).clock hc
  | releaseSection sent => exact (calm_actsIn h).clock hc
  | forceSweep sent => exact (calm_actsIn h).clock hc
  | confirmClear sent => exact (calm_actsIn h).clock hc
  | gateRetry sent => exact (calm_actsIn h).clock hc
  | lookup sent => exact (calm_readsIn h).clock hc
  | scan sent => exact (calm_readsIn h).clock hc
  | walk sent => exact (calm_readsIn h).clock hc
  | unitStatus sent => exact (calm_readsIn h).clock hc
  | sectionStatus sent => exact (calm_readsIn h).clock hc
  | gateStatus sent => exact (calm_readsIn h).clock hc
  | detectorStatus sent => exact (calm_readsIn h).clock hc
  | pathStatus sent => exact (calm_readsIn h).clock hc
  | describe sent => exact (calm_reads h).clock hc
  | readTime sent => exact (calm_reads h).clock hc
  | readPlan sent => exact (calm_reads h).clock hc
  | planRoad sent => exact (calm_editsIn h).clock hc
  | planUnit sent => exact (calm_editsIn h).clock hc
  | planSection sent => exact (calm_editsIn h).clock hc
  | planDetector sent => exact (calm_editsIn h).clock hc
  | planPath sent => exact (calm_editsIn h).clock hc
  | settle sent =>
    exact (calm_request (fun _ _ _ => calm_inPart fun _ => calm_body fun _ _ =>
      calm_same rfl rfl) h).clock hc
  | abort sent =>
    have h : Machine.execAbort sent s = .next s' := h
    unfold Machine.execAbort at h
    split at h
    · cases h; exact (calm_same (s := s) rfl rfl).clock hc
    · exact (calm_readsIn h).clock hc
  | takeAttention sent =>
    exact (calm_request (fun _ _ _ => calm_body fun _ _ => calm_same rfl rfl) h).clock hc
  | setEnables sent =>
    exact (calm_request (fun _ _ _ => calm_body fun _ _ => calm_same rfl rfl) h).clock hc
  | attend sent =>
    exact (calm_request (fun _ _ _ => calm_body fun _ _ => calm_same rfl rfl) h).clock hc
  | unattend sent =>
    refine (calm_request (fun t _ _ => calm_body fun x _ => ?_) h).clock hc
    unfold Machine.unattend
    dsimp only
    split
    · exact calm_same rfl rfl
    · split <;> exact calm_same rfl rfl
  | commission sent =>
    refine (calm_request (fun t _ _ => calm_inPart fun _ => calm_body fun x _ => ?_) h).clock hc
    unfold Machine.commission
    split
    · exact calm_same rfl rfl
    · rename_i hv
      split
      · exact calm_same rfl rfl
      · exact ⟨rfl, fun _ => .inr (by simpa using hv)⟩
  | decommission sent =>
    refine (calm_request (fun t _ _ => calm_inPart fun _ => calm_body fun x _ => ?_) h).clock hc
    unfold Machine.decommission
    split
    · exact calm_same rfl rfl
    · exact ⟨rfl, fun h => by cases h⟩
  | unknownRequestCode code sent =>
    have h : Machine.execUnknownRequestCode code sent s = .next s' := h
    unfold Machine.execUnknownRequestCode at h
    exact (calm_request (fun _ _ _ => calm_same rfl rfl) h).clock hc
  | setTime sent =>
    have h : Machine.execSetTime sent s = .next s' := h
    unfold Machine.execSetTime Machine.request at h
    cases h
    split
    · unfold State.answer Machine.withBody
      cases hb : readBody num4 sent.bytes with
      | none => exact (calm_same (s := s) rfl rfl).clock hc
      | some n =>
        have hn := num4_bound hb
        have h1 := passTimeEvent_cru { (s.shiftOut (s.idleBytes (sent.bytes.length + 4) sent.begunBusy)).receive 0x48 sent.bytes
          with cru := { s.cru with passTime := n, timeValid := true } }
        refine Calm.clock (s := { s with cru := { s.cru with passTime := n, timeValid := true } })
          ⟨h1.1, fun _ => .inr rfl⟩ ⟨hc.1, hn, hc.2.2.1, hc.2.2.2.1, fun _ => rfl⟩
    · exact (calm_same (s := s) rfl rfl).clock hc
  | replyRead sent =>
    have h : Host.Outcome.next (s.readReply sent.count sent.begunBusy) = .next s' := h
    cases h
    unfold State.readReply
    split
    · dsimp only
      split <;> exact (calm_same (s := s) rfl rfl).clock hc
    · exact (calm_same (s := s) rfl rfl).clock hc
  | hostIntervalRunOut =>
    have h : Machine.execHostIntervalRunOut s = .next s' := h
    unfold Machine.execHostIntervalRunOut at h
    cases h
    split <;> exact (calm_same (s := s) rfl rfl).clock hc
  | settleTimeout =>
    have h : Machine.execSettleTimeout s = .next s' := h
    unfold Machine.execSettleTimeout at h
    cases h
    split <;> exact (calm_same (s := s) rfl rfl).clock hc
  | passTimeSecond =>
    have h : Machine.execPassTimeSecond s = .next s' := h
    unfold Machine.execPassTimeSecond at h
    cases h
    have h0 : State.ClockLaw { s with cru := s.cru.advanced } :=
      ⟨hc.1, Nat.min_le_right _ _, hc.2.2.1, hc.2.2.2.1, hc.2.2.2.2⟩
    split
    · have h1 := passTimeEvent_cru { s with cru := s.cru.advanced }
      exact (calm_same h1.1 h1.2).clock h0
    · exact h0
  | mainsLoss =>
    have h : Machine.execMainsLoss s = .next s' := h
    unfold Machine.execMainsLoss at h
    cases h
    split
    · dsimp only
      split
      · exact ⟨⟨(fun h => by cases h), (fun h => by cases h.1)⟩, hc.2.1, hc.2.2.1,
          (fun h => by cases h), hc.2.2.2.2⟩
      · rename_i hw
        exact ⟨⟨fun h => absurd h hw, (fun h => by cases h.1)⟩, hc.2.1, hc.2.2.1,
          (fun h => absurd h hw), hc.2.2.2.2⟩
    · exact hc
  | mainsReturn =>
    have h : Machine.execMainsReturn s = .next s' := h
    unfold Machine.execMainsReturn at h
    cases h
    split
    · exact hc
    · rename_i hm
      have hw : s.cru.working = false := by
        cases hw : s.cru.working with
        | false => rfl
        | true => exact absurd (hc.1.mp hw).1 hm
      dsimp only
      split
      · rename_i hp
        refine ⟨⟨fun h => ?_, fun h => ?_⟩, hc.2.1, hc.2.2.1, (fun h => ?_), hc.2.2.2.2⟩
        · rw [show s.cru.working = true from h] at hw; cases hw
        · have := h.2; dsimp only at this; rw [hp] at this; cases this
        · rw [show s.cru.working = true from h] at hw; cases hw
      · rename_i hp
        exact clock_start _ s _ rfl (by simpa using hp) hc.2.1 hc.2.2.1 hc.2.2.2.2
  | resetPinAsserted =>
    have h : Machine.execResetPinAsserted s = .next s' := h
    unfold Machine.execResetPinAsserted at h
    cases h
    dsimp only
    split
    · exact ⟨⟨(fun h => by cases h), (fun h => by cases h.2)⟩, hc.2.1, hc.2.2.1,
        (fun h => by cases h), hc.2.2.2.2⟩
    · rename_i hn
      have hw : s.cru.working = false := by
        cases hw : s.cru.working with
        | false => rfl
        | true => exact absurd ⟨(hc.1.mp hw).1, hw⟩ hn
      refine ⟨⟨fun h => ?_, (fun h => by cases h.2)⟩, hc.2.1, hc.2.2.1, (fun h => ?_), hc.2.2.2.2⟩
      all_goals rw [show s.cru.working = true from h] at hw; cases hw
  | resetPinReleased =>
    have h : Machine.execResetPinReleased s = .next s' := h
    unfold Machine.execResetPinReleased at h
    cases h
    dsimp only
    split
    · rename_i hm
      exact clock_start _ s _ hm.1 rfl hc.2.1 hc.2.2.1 hc.2.2.2.2
    · rename_i hn
      refine ⟨⟨fun h => ⟨(hc.1.mp h).1, rfl⟩, fun h => ?_⟩, hc.2.1, hc.2.2.1, hc.2.2.2.1,
        hc.2.2.2.2⟩
      by_contra hw
      exact hn ⟨h.1, by simpa using hw⟩
  | status line addr report =>
    have h : Machine.onRoad (fun e r => r.answered e line addr (Road.takeStatus e report line))
      s = .next s' := h
    exact (calm_onRoad (s := s) (t := s) rfl rfl h).clock hc
  | ack line addr =>
    have h : Machine.onRoad (fun e r => r.answered e line addr (Road.takeAck e line))
      s = .next s' := h
    exact (calm_onRoad (s := s) (t := s) rfl rfl h).clock hc
  | ackBurst line addr =>
    have h : Machine.onRoad (fun e r => r.answered e line addr (Road.takeText line .burst))
      s = .next s' := h
    exact (calm_onRoad (s := s) (t := s) rfl rfl h).clock hc
  | ackSingle line addr =>
    have h : Machine.onRoad (fun e r => r.answered e line addr (Road.takeText line (.line 0)))
      s = .next s' := h
    exact (calm_onRoad (s := s) (t := s) rfl rfl h).clock hc
  | nak line addr =>
    have h : Machine.onRoad (fun e r => r.answered e line addr (Road.takeNak e line))
      s = .next s' := h
    exact (calm_onRoad (s := s) (t := s) rfl rfl h).clock hc
  | amendData line addr base severity text =>
    have h : Machine.onRoad (fun e r => r.answered e line addr (Road.takeAmend e line base severity text))
      s = .next s' := h
    exact (calm_onRoad (s := s) (t := s) rfl rfl h).clock hc
  | noAnswer line =>
    have h : Machine.onRoad (fun e r => r.unanswered e line)
      s = .next s' := h
    exact (calm_onRoad (s := s) (t := s) rfl rfl h).clock hc
  | fieldResponseTimeout line =>
    have h : Machine.onRoad (fun e r => r.unanswered e line)
      s = .next s' := h
    exact (calm_onRoad (s := s) (t := s) rfl rfl h).clock hc
  | windowRunOut path =>
    have h : Machine.onRoad (fun _ r => r.windowRunOut path)
      s = .next s' := h
    exact (calm_onRoad (s := s) (t := s) rfl rfl h).clock hc
  | travelLimitReached gate =>
    have h : Machine.onRoad (fun e r => r.travelLimit e gate)
      s = .next s' := h
    exact (calm_onRoad (s := s) (t := s) rfl rfl h).clock hc
  | noticeTimerReachesL i => exact (calm_event (t := s) rfl rfl rfl h).clock hc
  | noticeWaitRunOut i => exact (calm_event (t := s) rfl rfl rfl h).clock hc
  | sweepMinimumRun i => exact (calm_event (t := s) rfl rfl rfl h).clock hc
  | sweepOverdueRun i => exact (calm_event (t := s) rfl rfl rfl h).clock hc
  | detectorRise input =>
    have h : Machine.onRoad (fun _ r => r.rise input)
      (s.setPin input .high) = .next s' := h
    exact (calm_onRoad (s := s) (t := s.setPin input .high) rfl rfl h).clock hc
  | detectorFall input =>
    have h : Machine.onRoad (fun e r => r.fall e input)
      (s.setPin input .low) = .next s' := h
    exact (calm_onRoad (s := s) (t := s.setPin input .low) rfl rfl h).clock hc
  | stuckLimitReached input =>
    have h : Machine.onRoad (fun e r => r.stuckLimit e input)
      s = .next s' := h
    exact (calm_onRoad (s := s) (t := s) rfl rfl h).clock hc
  | requestFrameError sent =>
    have h : Machine.execRequestFrameError sent s = .next s' := h
    unfold Machine.execRequestFrameError at h
    cases h
    dsimp only
    split <;> exact (calm_same (s := s) rfl rfl).clock hc
  | backupDomainLost =>
    have h : Machine.execBackupDomainLost s = .next s' := h
    unfold Machine.execBackupDomainLost at h
    cases h
    split
    · exact hc
    · rename_i hm
      refine ⟨hc.1, hc.2.1, hc.2.2.1, (fun h => absurd (hc.1.mp h).1 hm), hc.2.2.2.2⟩

theorem clock_step (s s' : State) (hc : s.ClockLaw) (h : Machine.step s = .next s') :
    s'.ClockLaw := by
  unfold Machine.step at h
  split at h
  · rename_i c rest hl
    exact clock_exec c { s with pending := rest } s' hc h
  · cases h
    have h1 : s.cru.ticked.phase < 1000 := by
      unfold Cru.ticked
      dsimp only
      split <;> omega
    unfold State.tick
    dsimp only
    split
    · exact ⟨hc.1, hc.2.1, h1, hc.2.2.2.1, hc.2.2.2.2⟩
    · exact ⟨hc.1, hc.2.1, h1, hc.2.2.2.1, hc.2.2.2.2⟩

/-! ### The port law -/

/-- The settings of the port that the law bounds. -/
def Setting (n : Nat) : Prop := n = 0 ∨ 10 ≤ n ∧ n ≤ 3600

/-- What a handler leaves: a reply and no SETTLE, or a SETTLE that waits and no reply. -/
structure Handled (x : State × Option Reply) : Prop where
  working : x.1.cru.working = true
  settle  : x.1.road.settle.isSome = x.2.isNone
  reply   : x.1.port.reply = none
  setting : Setting x.1.port.interval

/-- A placed reply keeps the law. -/
theorem place_law {s : State} (rep : Reply) (hw : s.cru.working = true)
    (hs : s.road.settle = none) (hi : Setting s.port.interval) : (s.place rep).PortLaw := by
  refine ⟨⟨fun _ => rfl, fun _ => rfl⟩, ⟨fun h => ?_, fun h => ?_⟩, ?_, fun h => ?_, hi⟩
  · cases h
  · have h : s.road.settle.isSome = true := h
    rw [hs] at h; cases h
  · show s.port.restarted.isSome = true ↔ s.cru.working = true ∧ s.port.mode = .attended ∧
      s.port.interval ≠ 0 ∧ PortState.unread ≠ .busy
    unfold Port.restarted
    split
    · rename_i h
      exact ⟨fun _ => ⟨hw, h.1, h.2, by simp⟩, fun _ => rfl⟩
    · rename_i h
      exact ⟨(fun h => by cases h), fun h' => absurd ⟨h'.2.1, h'.2.2.1⟩ h⟩
  · rw [show s.cru.working = false from h] at hw; cases hw

theorem overtake_law {s : State} (rep : Reply) (hw : s.cru.working = true)
    (hs : s.road.settle = none) (hi : Setting s.port.interval) : (s.overtake rep).PortLaw :=
  place_law rep hw hs hi

theorem answer_law {x : State × Option Reply} (h : Handled x) : (State.answer x).PortLaw := by
  unfold State.answer
  have hs := h.settle
  split
  · rename_i rep hr
    rw [hr] at hs
    exact place_law rep h.working (by simpa using hs) h.setting
  · rename_i hr
    rw [hr] at hs
    refine ⟨⟨(fun h => by cases h), fun h' => ?_⟩, ⟨fun _ => hs, fun _ => rfl⟩, ⟨(fun h => by cases h),
      fun h => absurd rfl h.2.2.2⟩, fun h' => ?_, h.setting⟩
    · have h' : x.1.port.reply.isSome = true := h'
      rw [h.reply] at h'; cases h'
    · have := h.working
      rw [show x.1.cru.working = false from h'] at this; cases this

/-- A READY port that a request finds: nothing waits and nothing stands. -/
structure Free (t : State) : Prop where
  working : t.cru.working = true
  settle  : t.road.settle = none
  reply   : t.port.reply = none
  setting : Setting t.port.interval

/-- A handler that leaves the port's settings and reply alone, with a reply of its own. -/
theorem Free.same {t : State} {x : State × Option Reply} (h : Free t)
    (hc : x.1.cru.working = t.cru.working) (hs : x.1.road.settle = none)
    (hr : x.1.port.reply = t.port.reply) (hi : x.1.port.interval = t.port.interval)
    (hn : x.2.isNone = false) : Handled x :=
  ⟨hc.trans h.working, by rw [hs, hn]; rfl, hr.trans h.reply, by rw [hi]; exact h.setting⟩

theorem Free.still {t : State} {rep : Reply} (h : Free t) : Handled (t, some rep) :=
  h.same rfl h.settle rfl rfl rfl

theorem ready_free {s : State} (h : s.PortLaw) (hw : s.cru.working = true)
    (hr : s.port.state = .ready) (p : Port) (hp : p.reply = s.port.reply)
    (hi : p.interval = s.port.interval) : Free { s with port := p } := by
  refine ⟨hw, ?_, ?_, ?_⟩
  · cases hs : s.road.settle with
    | none => rfl
    | some st =>
      have := h.2.1.mpr (by rw [hs]; rfl)
      rw [hr] at this; cases this
  · show p.reply = none
    rw [hp]
    cases hs : s.port.reply with
    | none => rfl
    | some st =>
      have := h.1.mpr (by rw [hs]; rfl)
      rw [hr] at this; cases this
  · show Setting p.interval
    rw [hi]; exact h.2.2.2.2

/-- Bytes shifted out, and nothing else. -/
theorem shift_law {s : State} (h : s.PortLaw) (out : List Byte) : (s.shiftOut out).PortLaw := h

theorem law_request {code : Byte} {sent : Shifted} {run : Handler} {s s' : State}
    (hl : s.PortLaw) (hrun : ∀ t : State, Free t → t.part = s.part → t.plan = s.plan →
      t.road = s.road → Handled (run t))
    (h : Machine.request code sent run s = .next s') : s'.PortLaw := by
  unfold Machine.request at h
  cases h
  split
  · rename_i hr
    exact answer_law (hrun _ (ready_free hl hr.1 hr.2
      ((s.shiftOut (s.idleBytes (sent.bytes.length + 4) sent.begunBusy)).receive code sent.bytes).port rfl rfl) rfl rfl rfl)
  · exact hl

theorem law_inPart {part : PartState} {f : Handler} {t : State} (ht : Free t)
    (h : t.part = part → Handled (f t)) : Handled (Machine.inPart part f t) := by
  unfold Machine.inPart
  split
  · rename_i hp; exact h hp
  · exact ht.still

theorem law_body {α : Type} {p : Parse α} {body : List Byte}
    {f : α → State → State × Option Reply} {t : State} (ht : Free t)
    (h : ∀ x, readBody p body = some x → Handled (f x t)) :
    Handled (Machine.withBody p body f t) := by
  unfold Machine.withBody
  split
  · rename_i x hx; exact h x hx
  · exact ht.still

theorem law_readsIn {α : Type} {p : Parse α} {code : Byte} {sent : Shifted} {part : PartState}
    {f : State → α → Reply} {s s' : State} (hl : s.PortLaw)
    (h : Machine.request code sent
      (Machine.inPart part (Machine.withBody p sent.bytes (Machine.reads f))) s = .next s') : s'.PortLaw :=
  law_request hl (fun _ ht _ _ _ => law_inPart ht fun _ => law_body ht fun _ _ => ht.still) h

theorem law_reads {α : Type} {p : Parse α} {code : Byte} {sent : Shifted}
    {f : State → α → Reply} {s s' : State} (hl : s.PortLaw)
    (h : Machine.request code sent (Machine.withBody p sent.bytes (Machine.reads f)) s = .next s') :
    s'.PortLaw :=
  law_request hl (fun _ ht _ _ _ => law_body ht fun _ _ => ht.still) h

theorem law_editsIn {α : Type} {p : Parse α} {code : Byte} {sent : Shifted} {part : PartState}
    {f : α → Plan → Plan} {s s' : State} (hl : s.PortLaw)
    (h : Machine.request code sent
      (Machine.inPart part (Machine.withBody p sent.bytes (Machine.edits f))) s = .next s') : s'.PortLaw :=
  law_request hl (fun _ ht _ _ _ => law_inPart ht fun _ => law_body ht fun _ _ =>
    ht.same rfl ht.settle rfl rfl rfl) h

/-- Moves that start with no SETTLE end with none. -/
theorem settle_moves {e : Env} {r r' : Road} (h : Road.Moves e r r') (hs : r.settle = none) :
    r'.settle = none :=
  Lawful.moves (P := fun r => r.settle = none) (fun _ _ h => Keeps.settle_none h) h hs

theorem law_actsIn {α : Type} {p : Parse α} {code : Byte} {sent : Shifted} {part : PartState}
    {f : Env → α → Road → Road × Reply} {s s' : State} (hl : s.PortLaw)
    (hf : ∀ e x r, r.settle = none → (f e x r).1.settle = none)
    (h : Machine.request code sent
      (Machine.inPart part (Machine.withBody p sent.bytes (Machine.acts f))) s = .next s') : s'.PortLaw :=
  law_request hl (fun _ ht _ _ _ => law_inPart ht fun _ => law_body ht fun _ _ =>
    ht.same rfl (hf _ _ _ ht.settle) rfl rfl rfl) h

/-- The road blocks handed over after an event that makes no SETTLE wait. -/
theorem hand_law {s : State} {r : Road} (hl : s.PortLaw) (hw : s.cru.working = true)
    (hs : s.road.settle = none → r.settle = none) : (s.hand r).PortLaw := by
  unfold State.hand
  split
  · rename_i st h1 h2
    exact overtake_law (s := { s with road := r }) _ hw h2 hl.2.2.2.2
  · rename_i hn
    refine ⟨hl.1, ⟨fun h => ?_, fun h => ?_⟩, hl.2.2.1, fun h => ?_, hl.2.2.2.2⟩
    · have h1 := hl.2.1.mp h
      show r.settle.isSome = true
      obtain ⟨st, h2⟩ := Option.isSome_iff_exists.mp h1
      cases h3 : r.settle with
      | none => exact absurd h3 (hn st h2)
      | some x => rfl
    · have h : r.settle.isSome = true := h
      refine hl.2.1.mpr ?_
      by_contra h2
      rw [hs (by simpa using h2)] at h
      cases h
    · rw [show s.cru.working = false from h] at hw; cases hw

theorem law_onRoad {f : Env → Road → Road} {t s' : State} (hl : t.PortLaw)
    (hs : ∀ e r, r.settle = none → (f e r).settle = none)
    (h : Machine.onRoad f t = .next s') : s'.PortLaw := by
  unfold Machine.onRoad at h
  cases h
  split
  · rename_i hw
    exact hand_law hl hw (hs _ _)
  · exact hl

theorem passTimeEvent_law {s : State} (hl : s.PortLaw) (hw : s.cru.working = true) :
    s.passTimeEvent.PortLaw := by
  unfold State.passTimeEvent
  split
  · exact hand_law hl hw fun hs => settle_moves (Moves.passTimeEvent _) hs
  · exact hl

theorem warm_law (c : StartCause) (s : State) (r : Road) (hi : Setting s.port.interval)
    (hs : r.settle = none) : State.PortLaw { s with
      cru := { s.cru with startCause := c, working := true, mainsLost := false }
      port := { s.port with state := .ready, reply := none, buffer := [], timer := s.port.restarted,
                            overtaken := false }
      road := r } := by
  refine ⟨⟨(fun h => by cases h), (fun h => by cases h)⟩, ⟨(fun h => by cases h), fun h => ?_⟩, ?_,
    (fun h => by cases h), hi⟩
  · have h : r.settle.isSome = true := h
    rw [hs] at h; cases h
  · show s.port.restarted.isSome = true ↔ true = true ∧ s.port.mode = .attended ∧
      s.port.interval ≠ 0 ∧ PortState.ready ≠ .busy
    unfold Port.restarted
    split
    · rename_i h
      exact ⟨fun _ => ⟨rfl, h.1, h.2, by simp⟩, fun _ => rfl⟩
    · rename_i h
      exact ⟨(fun h => by cases h), fun h' => absurd ⟨h'.2.1, h'.2.2.1⟩ h⟩

theorem start_law (c : StartCause) (s : State) (hi : Setting s.port.interval) :
    (s.start c).PortLaw := by
  unfold State.start
  split
  · unfold State.warmStart
    dsimp only
    split
    · exact warm_law c s _ hi (settle_moves (Lawful.warm_moves s.env s.pins s.road) rfl)
    · exact warm_law c s _ hi rfl
  · unfold State.coldStart
    refine ⟨⟨(fun h => by cases h), (fun h => by cases h)⟩, ⟨(fun h => by cases h), (fun h => by cases h)⟩,
      ⟨(fun h => by cases h), fun h => absurd rfl h.2.2.1⟩, (fun h => by cases h), .inl rfl⟩

theorem stop_law (s : State) (hi : Setting s.port.interval) : s.stop.PortLaw := by
  unfold State.stop
  exact ⟨⟨(fun h => by cases h), (fun h => by cases h)⟩, ⟨(fun h => by cases h), (fun h => by cases h)⟩,
    ⟨(fun h => by cases h), (fun h => by cases h.1)⟩, fun _ => ⟨rfl, rfl⟩, hi⟩

/-- The mode is left while no SETTLE waits. -/
theorem leave_law {s : State} (fl : BitVec 14) (hl : s.PortLaw) (hw : s.cru.working = true)
    (hs : s.road.settle = none) :
    (State.leaveAttended { s with road := { s.road with flags := fl } }).PortLaw := by
  unfold State.leaveAttended
  dsimp only
  generalize hu : (State.env _) = u
  have hm := settle_moves (Moves.trans (Moves.modeNotice (e := u) { s.road with flags := fl })
    (Moves.readyTests _)) hs
  generalize Road.readyTests u _ = r at hm
  refine ⟨hl.1, ⟨fun h => ?_, fun h => ?_⟩, ⟨(fun h => by cases h), fun h => by cases h.2.1⟩, fun h => ?_, hl.2.2.2.2⟩
  · have := hl.2.1.mp h
    rw [hs] at this; cases this
  · have h : r.settle.isSome = true := h
    rw [hm] at h; cases h
  · rw [show s.cru.working = false from h] at hw; cases hw

theorem setOcc_settle {e : Env} {r1 : Road} {j : Fin 8} {x : Occ} (h : r1.settle = none) :
    ((r1.setOcc j x).sweepTest e j).settle = none :=
  settle_moves (Moves.sweepTest j _) h

theorem ordered_settle (e : Env) (r : Road) (i : Fin 8) (st : SecState) (d : Order)
    (h : r.settle = none) : (r.ordered e i st d).settle = none := by
  obtain ⟨sd, gd, ln, fl, he, _⟩ := Lawful.ordered_frame e r i st d
  rw [he]; exact h

theorem pin_law {s : State} (hl : s.PortLaw) (i : Fin 16) (x : Level) :
    (s.setPin i x).PortLaw := by
  unfold State.setPin
  exact hl

theorem dropMarker_settle (e : Env) (r : Road) : (r.dropMarker e).settle = none := by
  unfold Road.dropMarker
  split
  · exact settle_moves (Moves.pump _) rfl
  · rfl

/-- The state a transaction's status byte reports: BUSY for one overtaken by a SETTLE's end, else the
present one (R192). -/
theorem stateShown_eq (p : Port) (begun : Bool) : p.stateShown begun =
    if p.state = .unread ∧ p.overtaken = true ∧ begun = true then .busy else p.state := by
  unfold Port.stateShown Port.missed
  cases p.state <;> cases p.overtaken <;> cases begun <;> rfl

/-- A transaction that is shown UNREAD ends on an UNREAD port. -/
theorem unread_of_shown {p : Port} {begun : Bool} (h : p.stateShown begun = .unread) :
    p.state = .unread := by
  unfold Port.stateShown at h
  split at h
  · cases h
  · exact h

/-- A host interval timer at its setting runs. -/
theorem running_of_silent {p : Port} (h : p.silent = true) : p.timer.isSome = true := by
  unfold Port.silent at h
  cases ht : p.timer with
  | none => rw [ht] at h; cases h
  | some n => rfl

theorem port_exec (c : Instr) (s s' : State) (hl : s.PortLaw) (h : Machine.exec c s = .next s') :
    s'.PortLaw := by
  have answered : ∀ (l : Fin 4) (a : Byte) (take : Env → Exchange → Road → Option Road)
      (_ : ∀ e ex r r', take e ex r = some r' → Road.Moves e r r') (e : Env) (r : Road),
      r.settle = none → (r.answered e l a (take e)).settle = none := fun l a take ht e r hs =>
    settle_moves (Moves.answered l a (take e) r (ht e)) hs
  cases c with
  | post sent => exact law_actsIn hl (fun _ _ _ => settle_moves (Turn.postRequest _ _ _)) h
  | change sent => exact law_actsIn hl (fun _ _ _ => settle_moves (Turn.changeRequest _ _ _)) h
  | retire sent => exact law_actsIn hl (fun _ _ _ => settle_moves (Turn.retireRequest _ _ _)) h
  | forceSweep sent => exact law_actsIn hl (fun _ _ _ => settle_moves (Turn.forceRequest _ _ _)) h
  | gateRetry sent => exact law_actsIn hl (fun _ _ _ => settle_moves (Turn.retryRequest _ _ _)) h
  | releaseSection sent =>
    refine law_actsIn hl (fun e i r hs => ?_) h
    unfold Machine.releaseRequest
    split
    · exact hs
    · exact settle_moves (Moves.gateTest i _) (ordered_settle e r i .opening .toOpen hs)
    · exact hs
  | confirmClear sent =>
    refine law_actsIn hl (fun e i r hs => ?_) h
    unfold Machine.confirmRequest
    split
    · exact hs
    · rcases Turn.changeOcc e i (.known 0) r with h | h
      · exact settle_moves h hs
      · show (r.changeOcc e i (.known 0)).settle = none
        rw [h]; exact setOcc_settle hs
    · exact hs
  | lookup sent => exact law_readsIn hl h
  | scan sent => exact law_readsIn hl h
  | walk sent => exact law_readsIn hl h
  | unitStatus sent => exact law_readsIn hl h
  | sectionStatus sent => exact law_readsIn hl h
  | gateStatus sent => exact law_readsIn hl h
  | detectorStatus sent => exact law_readsIn hl h
  | pathStatus sent => exact law_readsIn hl h
  | describe sent => exact law_reads hl h
  | readTime sent => exact law_reads hl h
  | readPlan sent => exact law_reads hl h
  | planRoad sent => exact law_editsIn hl h
  | planUnit sent => exact law_editsIn hl h
  | planSection sent => exact law_editsIn hl h
  | planDetector sent => exact law_editsIn hl h
  | planPath sent => exact law_editsIn hl h
  | settle sent =>
    refine law_request hl (fun t ht _ _ _ => law_inPart ht fun _ => law_body ht fun n _ => ?_) h
    unfold Machine.settleRequest
    dsimp only
    refine ⟨ht.working, ?_, ht.reply, ht.setting⟩
    dsimp only
    split <;> rename_i h2 <;> rw [h2] <;> rfl
  | abort sent =>
    have h : Machine.execAbort sent s = .next s' := h
    unfold Machine.execAbort at h
    split at h
    · rename_i hb
      cases h
      exact place_law (s := { ((s.shiftOut (s.idleBytes (sent.bytes.length + 4) sent.begunBusy)).receive 0x39 sent.bytes) with
        road := s.road.dropMarker s.env }) _ hb.1 (dropMarker_settle _ _) hl.2.2.2.2
    · exact law_readsIn hl h
  | takeAttention sent =>
    exact law_request hl (fun _ ht _ _ _ => law_body ht fun _ _ => ht.same rfl ht.settle rfl rfl rfl) h
  | setEnables sent =>
    exact law_request hl (fun _ ht _ _ _ => law_body ht fun _ _ => ht.same rfl ht.settle rfl rfl rfl) h
  | attend sent =>
    refine law_request hl (fun _ ht _ _ _ => law_body ht fun n hn => ?_) h
    exact ⟨ht.working, by show Option.isSome _ = _; exact congrArg Option.isSome ht.settle, ht.reply, attend_bound hn⟩
  | unattend sent =>
    refine law_request hl (fun t ht _ _ _ => law_body ht fun x _ => ?_) h
    unfold Machine.unattend
    dsimp only
    split
    · exact ht.still
    · split
      · exact ht.still
      · refine ht.same rfl ?_ rfl rfl rfl
        unfold State.leaveAttended
        dsimp only
        exact settle_moves (Moves.trans (Moves.modeNotice _) (Moves.readyTests _)) ht.settle
  | setTime sent =>
    refine law_request hl (fun t ht _ _ _ => law_body ht fun n _ => ?_) h
    unfold Machine.setTime State.passTimeEvent
    dsimp only
    split
    · have hm := settle_moves (Moves.passTimeEvent (e := State.env { t with
        cru := { t.cru with passTime := n, timeValid := true } }) t.road) ht.settle
      have hh : State.hand { t with cru := { t.cru with passTime := n, timeValid := true } }
          (t.road.passTimeEvent (State.env { t with
            cru := { t.cru with passTime := n, timeValid := true } })) =
          { t with cru := { t.cru with passTime := n, timeValid := true },
                   road := t.road.passTimeEvent (State.env { t with
                     cru := { t.cru with passTime := n, timeValid := true } }) } := by
        unfold State.hand
        split
        · rename_i st h1 _
          have h1 : t.road.settle = some st := h1
          rw [ht.settle] at h1; cases h1
        · rfl
      rw [hh]
      exact ht.same rfl hm rfl rfl rfl
    · exact ht.same rfl ht.settle rfl rfl rfl
  | commission sent =>
    refine law_request hl (fun t ht _ _ _ => law_inPart ht fun _ => law_body ht fun x _ => ?_) h
    unfold Machine.commission
    split
    · exact ht.still
    · split
      · exact ht.still
      · exact ht.same rfl
          (settle_moves (Lawful.commissioned_moves t.env t.plan t.pins t.road) rfl) rfl rfl rfl
  | decommission sent =>
    refine law_request hl (fun t ht _ _ _ => law_inPart ht fun _ => law_body ht fun x _ => ?_) h
    unfold Machine.decommission
    split
    · exact ht.still
    · exact ht.same rfl rfl rfl rfl rfl
  | unknownRequestCode code sent =>
    have h : Machine.execUnknownRequestCode code sent s = .next s' := h
    unfold Machine.execUnknownRequestCode at h
    exact law_request hl (fun _ ht _ _ _ => ht.still) h
  | replyRead sent =>
    have h : Host.Outcome.next (s.readReply sent.count sent.begunBusy) = .next s' := h
    cases h
    unfold State.readReply
    split
    · rename_i rep hw hst hr
      dsimp only
      split
      · exact hl
      · have hs : s.road.settle = none := by
          cases h2 : s.road.settle with
          | none => rfl
          | some st =>
            have := hl.2.1.mpr (by rw [h2]; rfl)
            rw [unread_of_shown hst] at this; cases this
        refine ⟨⟨(fun h => by cases h), (fun h => by cases h)⟩, ⟨(fun h => by cases h), fun h => ?_⟩, ?_, fun h => ?_, hl.2.2.2.2⟩
        · have h : s.road.settle.isSome = true := h
          rw [hs] at h; cases h
        · show s.port.restarted.isSome = true ↔ s.cru.working = true ∧ s.port.mode = .attended ∧
            s.port.interval ≠ 0 ∧ PortState.ready ≠ .busy
          unfold Port.restarted
          split
          · rename_i h
            exact ⟨fun _ => ⟨hw, h.1, h.2, by simp⟩, fun _ => rfl⟩
          · rename_i h
            exact ⟨(fun h => by cases h), fun h' => absurd ⟨h'.2.1, h'.2.2.1⟩ h⟩
        · rw [show s.cru.working = false from h] at hw; cases hw
    · exact hl
  | hostIntervalRunOut =>
    have h : Machine.execHostIntervalRunOut s = .next s' := h
    unfold Machine.execHostIntervalRunOut at h
    cases h
    split
    · rename_i hw
      have hb := (hl.2.2.1.mp (running_of_silent hw.2)).2.2.2
      refine leave_law _ hl hw.1 ?_
      cases h2 : s.road.settle with
      | none => rfl
      | some st => exact absurd (hl.2.1.mpr (by rw [h2]; rfl)) hb
    · exact hl
  | settleTimeout =>
    have h : Machine.execSettleTimeout s = .next s' := h
    unfold Machine.execSettleTimeout at h
    cases h
    split
    · rename_i hw
      exact overtake_law (s := { s with road := s.road.dropMarker s.env }) _ hw.1
        (dropMarker_settle _ _) hl.2.2.2.2
    · exact hl
  | passTimeSecond =>
    have h : Machine.execPassTimeSecond s = .next s' := h
    unfold Machine.execPassTimeSecond at h
    cases h
    split
    · rename_i hw
      exact passTimeEvent_law (s := { s with cru := s.cru.advanced }) hl hw
    · exact hl
  | mainsLoss =>
    have h : Machine.execMainsLoss s = .next s' := h
    unfold Machine.execMainsLoss at h
    cases h
    split
    · dsimp only
      split
      · exact stop_law _ hl.2.2.2.2
      · exact hl
    · exact hl
  | mainsReturn =>
    have h : Machine.execMainsReturn s = .next s' := h
    unfold Machine.execMainsReturn at h
    cases h
    split
    · exact hl
    · dsimp only
      split
      · exact hl
      · exact start_law _ _ hl.2.2.2.2
  | resetPinAsserted =>
    have h : Machine.execResetPinAsserted s = .next s' := h
    unfold Machine.execResetPinAsserted at h
    cases h
    dsimp only
    split
    · exact stop_law _ hl.2.2.2.2
    · exact hl
  | resetPinReleased =>
    have h : Machine.execResetPinReleased s = .next s' := h
    unfold Machine.execResetPinReleased at h
    cases h
    dsimp only
    split
    · exact start_law _ _ hl.2.2.2.2
    · exact hl
  | status line addr report =>
    exact law_onRoad (f := fun e r => r.answered e line addr (Road.takeStatus e report line)) hl
      (answered line addr (fun e => Road.takeStatus e report line)
        fun e => Moves.takeStatus report line) h
  | ack line addr =>
    exact law_onRoad (f := fun e r => r.answered e line addr (Road.takeAck e line)) hl
      (answered line addr (fun e => Road.takeAck e line) fun e => Moves.takeAck line) h
  | ackBurst line addr =>
    exact law_onRoad (f := fun e r => r.answered e line addr (Road.takeText line .burst)) hl
      (answered line addr (fun _ => Road.takeText line .burst) fun e => Moves.takeText line .burst) h
  | ackSingle line addr =>
    exact law_onRoad (f := fun e r => r.answered e line addr (Road.takeText line (.line 0))) hl
      (answered line addr (fun _ => Road.takeText line (.line 0))
        fun e => Moves.takeText line (.line 0)) h
  | nak line addr =>
    exact law_onRoad (f := fun e r => r.answered e line addr (Road.takeNak e line)) hl
      (answered line addr (fun e => Road.takeNak e line) fun e => Moves.takeNak line) h
  | amendData line addr base severity text =>
    exact law_onRoad (f := fun e r => r.answered e line addr
        (Road.takeAmend e line base severity text)) hl
      (answered line addr (fun e => Road.takeAmend e line base severity text)
        fun e => Moves.takeAmend line base severity text) h
  | noAnswer line =>
    exact law_onRoad (f := fun e r => r.unanswered e line) hl
      (fun _ _ => settle_moves (Moves.unanswered _ _)) h
  | fieldResponseTimeout line =>
    exact law_onRoad (f := fun e r => r.unanswered e line) hl
      (fun _ _ => settle_moves (Moves.unanswered _ _)) h
  | windowRunOut path =>
    exact law_onRoad (f := fun _ r => r.windowRunOut path) hl
      (fun e _ => settle_moves (Moves.windowRunOut (e := e) _ _)) h
  | travelLimitReached gate =>
    exact law_onRoad (f := fun e r => r.travelLimit e gate) hl
      (fun _ _ => settle_moves (Moves.travelLimit _ _)) h
  | noticeTimerReachesL i =>
    have hm : ∀ (e : Env) (r : Road), r.settle = none → (r.noticeReachesLead i e).settle = none :=
      fun _ r => settle_moves (Moves.noticeReachesLead i r)
    exact law_onRoad (f := Road.noticeReachesLead i) hl hm h
  | noticeWaitRunOut i =>
    have hm : ∀ (e : Env) (r : Road), r.settle = none → (r.noticeWaitOver i e).settle = none :=
      fun _ r => settle_moves (Moves.noticeWaitOver i r)
    exact law_onRoad (f := Road.noticeWaitOver i) hl hm h
  | sweepMinimumRun i =>
    have hm : ∀ (e : Env) (r : Road), r.settle = none → (r.sweepMinimumRun i e).settle = none :=
      fun _ r => settle_moves (Moves.sweepMinimumRun i r)
    exact law_onRoad (f := Road.sweepMinimumRun i) hl hm h
  | sweepOverdueRun i =>
    have hm : ∀ (e : Env) (r : Road), r.settle = none → (r.sweepOverdueRun i e).settle = none :=
      fun _ r => settle_moves (Moves.sweepOverdueRun i r)
    exact law_onRoad (f := Road.sweepOverdueRun i) hl hm h
  | detectorRise input =>
    have h : Machine.onRoad (fun _ r => r.rise input) (s.setPin input .high) = .next s' := h
    have hm : ∀ (e : Env) (r : Road), r.settle = none → (r.rise input).settle = none :=
      fun e r => settle_moves (Moves.rise (e := e) input r)
    exact law_onRoad (pin_law hl _ _) hm h
  | detectorFall input =>
    have h : Machine.onRoad (fun e r => r.fall e input) (s.setPin input .low) = .next s' := h
    refine law_onRoad (pin_law hl _ _) (fun e r hs => ?_) h
    rcases Turn.fall e input r with h | ⟨j, x, r1, h1, _, h2⟩
    · exact settle_moves h hs
    · rw [h2]; exact setOcc_settle (settle_moves h1 hs)
  | stuckLimitReached input =>
    refine law_onRoad (f := fun e r => r.stuckLimit e input) hl (fun e r hs => ?_) h
    rcases Turn.stuckLimit e input r with h | ⟨j, x, r1, h1, _, h2⟩
    · exact settle_moves h hs
    · rw [h2]; exact setOcc_settle (settle_moves h1 hs)
  | requestFrameError sent =>
    have h : Machine.execRequestFrameError sent s = .next s' := h
    unfold Machine.execRequestFrameError at h
    cases h
    dsimp only
    split
    · rename_i hr
      have hf := ready_free hl hr.1 hr.2 s.port rfl rfl
      have h1 := hf.settle
      exact place_law _ hr.1 h1 hl.2.2.2.2
    · exact hl
  | backupDomainLost =>
    have h : Machine.execBackupDomainLost s = .next s' := h
    unfold Machine.execBackupDomainLost at h
    cases h
    split <;> exact hl

theorem port_step (s s' : State) (hl : s.PortLaw) (h : Machine.step s = .next s') :
    s'.PortLaw := by
  unfold Machine.step at h
  split at h
  · rename_i c rest _
    exact port_exec c { s with pending := rest } s' hl h
  · cases h
    unfold State.tick
    dsimp only
    split
    · rename_i hw
      refine ⟨hl.1, ?_, ?_, fun h => ?_, hl.2.2.2.2⟩
      · show _ ↔ (s.road.settle.map _).isSome = true
        rw [Option.isSome_map]; exact hl.2.1
      · show (oneMs s.port.timer).isSome = true ↔ _
        unfold oneMs
        rw [Option.isSome_map]; exact hl.2.2.1
      · rw [show s.cru.working = false from h] at hw; cases hw
    · exact hl

end Ports

end Sys2Proof.Machine
end

