-- ==== Sys2Proof/Laws/Rounds.lean ====
section
/-! SUPPORT. What a line sends when an exchange has ended: the next round, the work opportunity, and the
transfer it takes, which is the one the head entry then has for it (R50, R51). -/

namespace Sys2Proof.Machine

namespace Rounds

variable {e : Env}

/-! ### Looking for a transfer leaves lines and links alone -/

/-- Lines and links stand. -/
def LinesKept (r r' : Road) : Prop := r'.lines = r.lines ∧ r'.links = r.links

theorem LinesKept.trans {a b c : Road} (h : LinesKept a b) (h' : LinesKept b c) : LinesKept a c :=
  ⟨h'.1.trans h.1, h'.2.trans h.2⟩

theorem LinesKept.line {r r' : Road} (h : LinesKept r r') (l : Fin 4) : r'.line l = r.line l := by
  unfold Road.line
  rw [h.1]

theorem LinesKept.link {r r' : Road} (h : LinesKept r r') (u : UnitId) : r'.link u = r.link u := by
  unfold Road.link
  rw [h.2]

theorem leave_kept (r : Road) : LinesKept r r.leave := by
  obtain ⟨_, _, _, _, h⟩ := Keeps.freeTest_frame { r with queue := r.queue.tail, work := none }
  unfold Road.leave
  rw [h]
  exact ⟨rfl, rfl⟩

theorem headStep_kept {r r' : Road} (h : headStep e r = some r') : LinesKept r r' := by
  unfold headStep at h
  split at h
  · exact absurd h (by simp)
  · rw [← Option.some.inj h]
    exact leave_kept { r with settle := none }
  · rw [← Option.some.inj h]
    exact ⟨rfl, rfl⟩
  · split at h
    · rw [← Option.some.inj h]
      exact ⟨rfl, rfl⟩
    · rw [← Option.some.inj h]
      exact leave_kept r
  · split at h
    · split at h
      · rw [← Option.some.inj h]
        exact ⟨rfl, rfl⟩
      · exact absurd h (by simp)
    · split at h
      · rw [← Option.some.inj h]
        exact leave_kept r
      · exact absurd h (by simp)

theorem advance_kept : ∀ (n : Nat) (r : Road), LinesKept r (advance e n r)
  | 0, _ => ⟨rfl, rfl⟩
  | n + 1, r => by
    unfold advance
    split
    · rename_i r' h
      exact (headStep_kept h).trans (advance_kept n r')
    · exact ⟨rfl, rfl⟩

theorem pump_kept (r : Road) : LinesKept r (r.pump e) := advance_kept _ r

theorem offerFetch_kept (en : Entry) (w : HeadWork) :
    ∀ (its : List FetchItem) (r : Road) (b : Bool) (r' : Road),
      r.offerFetch e en w its b = .changed r' → LinesKept r r'
  | [], r, b, r', h => by
    unfold Road.offerFetch at h
    split at h <;> cases h
    exact pump_kept r
  | it :: rest, r, b, r', h => by
    unfold Road.offerFetch at h
    split at h
    · exact offerFetch_kept en w rest (r.endFetch _) true r' h
    · split at h
      · split at h <;> cases h
        exact ⟨rfl, rfl⟩
      · split at h
        · split at h <;> cases h
          exact ⟨rfl, rfl⟩
        · cases h

theorem offerReconcile_kept :
    ∀ (us : List UnitId) (r : Road) (b : Bool) (r' : Road),
      Road.offerReconcile e us r b = .changed r' → LinesKept r r'
  | [], r, b, r', h => by
    unfold Road.offerReconcile at h
    split at h <;> cases h
    exact pump_kept r
  | u :: rest, r, b, r', h => by
    unfold Road.offerReconcile at h
    split at h
    · exact offerReconcile_kept rest (r.endPart u) true r' h
    · split at h
      · split at h <;> cases h
        exact ⟨rfl, rfl⟩
      · split at h
        · split at h <;> cases h
          exact ⟨rfl, rfl⟩
        · exact offerReconcile_kept rest (r.endPart u) true r' h

theorem offer_kept {r r' : Road} {l : Fin 4} (h : r.offer e l = .changed r') : LinesKept r r' := by
  unfold Road.offer at h
  split at h
  · split at h
    · exact offerFetch_kept _ _ _ r _ r' h
    · exact offerReconcile_kept _ r _ r' h
  · cases h

theorem takeTransfer_kept (l : Fin 4) :
    ∀ (n : Nat) (r : Road), LinesKept r (takeTransfer e l n r).1
  | 0, _ => ⟨rfl, rfl⟩
  | n + 1, r => by
    unfold takeTransfer
    split
    · exact ⟨rfl, rfl⟩
    · exact ⟨rfl, rfl⟩
    · rename_i r' h
      exact (offer_kept h).trans (takeTransfer_kept l n r')

/-! ### The transfer taken is the one then offered -/

/-- How far the head entry is from its end: every change of the head brings it nearer. -/
def depth (r : Road) : Nat :=
  3 * r.queue.length + match r.work with
    | none => 2
    | some w => match w.phase with
      | .fetch => 1
      | .reconcile => 0

theorem depth_leave (r : Road) (h : r.queue ≠ []) : depth r.leave + 1 ≤ 3 * r.queue.length := by
  obtain ⟨_, _, _, _, hf⟩ := Keeps.freeTest_frame { r with queue := r.queue.tail, work := none }
  have hl := List.length_pos_iff.mpr h
  unfold Road.leave depth
  rw [hf]
  simp only [List.length_tail]
  omega

theorem depth_step {r r' : Road} (h : headStep e r = some r') : depth r' < depth r := by
  have left : ∀ x : Road, x.queue = r.queue → r.queue ≠ [] → depth x.leave < depth r := by
    intro x hx hq
    have h1 := depth_leave x (by rw [hx]; exact hq)
    rw [hx] at h1
    exact Nat.lt_of_lt_of_le h1 (Nat.le_add_right _ _)
  unfold headStep at h
  split at h
  · exact absurd h (by simp)
  · rename_i q hq
    rw [← Option.some.inj h]
    exact left { r with settle := none } rfl (by rw [hq]; simp)
  · rename_i hw
    rw [← Option.some.inj h]
    simp [depth, hw, HeadWork.begin]
  · rename_i u q hq hw
    split at h
    · rw [← Option.some.inj h]
      simp [depth, hw, HeadWork.begin]
    · rw [← Option.some.inj h]
      exact left r rfl (by rw [hq]; simp)
  · rename_i en q w _ hq hw
    split at h
    · rename_i hp
      split at h
      · rw [← Option.some.inj h]
        simp [depth, hw, hp]
      · exact absurd h (by simp)
    · rename_i hp
      split at h
      · rw [← Option.some.inj h]
        exact left r rfl (by rw [hq]; simp)
      · exact absurd h (by simp)

theorem depth_advance : ∀ (n : Nat) (r : Road), depth (advance e n r) ≤ depth r
  | 0, _ => Nat.le_refl _
  | n + 1, r => by
    unfold advance
    split
    · rename_i r' h
      exact Nat.le_trans (depth_advance n r') (Nat.le_of_lt (depth_step h))
    · exact Nat.le_refl _

/-- Carrying the head on leaves the road as it is, or brings the head nearer to its end. -/
theorem depth_pump (r : Road) : r.pump e = r ∨ depth (r.pump e) < depth r := by
  unfold Road.pump advance
  split
  · rename_i r' h
    exact .inr (Nat.lt_of_le_of_lt (depth_advance _ r') (depth_step h))
  · exact .inl rfl

/-- What the head entry has for a line is decided: a transfer, or nothing for now. -/
def Decided (e : Env) (l : Fin 4) (r : Road) : Prop :=
  r.offer e l = .wait ∨ ∃ t, r.offer e l = .take t

theorem left_endFetch (w : HeadWork) (l : Fin 4) (f : FetchItem → Bool) :
    ((w.fetch.map fun it => if f it then { it with ended := true } else it).filter
      fun it => it.unit.line == l && !it.ended) = (HeadWork.itemsLeft w l).filter fun it => !f it := by
  unfold HeadWork.itemsLeft
  induction w.fetch with
  | nil => rfl
  | cons a t ih =>
    cases hf : f a <;> cases hl : (a.unit.line == l) <;> cases he : a.ended <;>
      simp [hf, hl, he, ih] at ih ⊢

/-- A look at a line's fetch items ends with the road decided for the line, or with the head nearer to
its end. -/
theorem offerFetch_changed (en : Entry) (q : List Entry) (l : Fin 4) (w : HeadWork)
    (hp : w.phase = .fetch) :
    ∀ (its : List FetchItem) (r : Road) (b : Bool) (w' : HeadWork) (keep : FetchItem → Bool) (r' : Road),
      r.queue = en :: q → r.work = some w' → w'.phase = .fetch → w'.ended = w.ended →
      HeadWork.itemsLeft w' l = its.filter keep →
      (∀ it, r.passedOver en w it = false → keep it = true) →
      r.offerFetch e en w its b = .changed r' → Decided e l r' ∨ depth r' < depth r
  | [], r, b, w', keep, r', hq, hw, hp', _, hl, _, h => by
    unfold Road.offerFetch at h
    split at h <;> cases h
    rcases depth_pump (e := e) r with hs | hd
    · refine .inl (.inl ?_)
      rw [hs]
      unfold Road.offer
      simp only [hq, hw, hp']
      unfold HeadWork.itemsLeft at hl
      rw [hl]
      rfl
    · exact .inr hd
  | it :: rest, r, b, w', keep, r', hq, hw, hp', he, hl, hk, h => by
    unfold Road.offerFetch at h
    split at h
    · rename_i hpass
      have hd : depth (r.endFetch fun x => x.unit == it.unit && x.slot == it.slot) = depth r := by
        simp [depth, Road.endFetch, hw]
      rw [← hd]
      refine offerFetch_changed en q l w hp rest _ true
        { w' with fetch := w'.fetch.map fun x =>
            if x.unit == it.unit && x.slot == it.slot then { x with ended := true } else x }
        (fun x => keep x && !(x.unit == it.unit && x.slot == it.slot)) r'
        hq (by simp [Road.endFetch, hw]) hp' he ?_ (fun x hx => ?_) h
      · have := left_endFetch w' l fun x => x.unit == it.unit && x.slot == it.slot
        rw [show HeadWork.itemsLeft { w' with fetch := w'.fetch.map fun x =>
            if x.unit == it.unit && x.slot == it.slot then { x with ended := true } else x } l = _
          from this, hl]
        simp [List.filter_filter, Bool.and_comm]
      · have hx' : r.passedOver en w x = false := hx
        rw [hk x hx']
        cases hu : (x.unit == it.unit) <;> cases hs : (x.slot == it.slot) <;> simp
        have : r.passedOver en w x = r.passedOver en w it := by
          unfold Road.passedOver
          rw [eq_of_beq hu, eq_of_beq hs]
        rw [this, hpass] at hx'
        cases hx'
    · rename_i hpass
      have hkeep : keep it = true := hk it (by simpa using hpass)
      have hpass' : r.passedOver en w' it = false := by
        unfold Road.passedOver at hpass ⊢
        rw [he]
        simpa using hpass
      have hoff : r.offer e l = r.offerFetch e en w' (it :: rest.filter keep) false := by
        unfold Road.offer
        simp only [hq, hw, hp']
        unfold HeadWork.itemsLeft at hl
        rw [hl]
        simp [hkeep]
      unfold Road.offerFetch at hoff
      simp only [hpass', Bool.false_eq_true, if_false] at hoff
      split at h
      · rename_i ha
        split at h <;> cases h
        simp only [ha, if_true] at hoff
        exact .inl (.inl hoff)
      · rename_i ha
        simp only [ha] at hoff
        split at h
        · rename_i t ht
          split at h <;> cases h
          rw [ht] at hoff
          exact .inl (.inr ⟨t, hoff⟩)
        · cases h

/-- The same of a look at a line's affected units. -/
theorem offerReconcile_changed (en : Entry) (q : List Entry) (l : Fin 4) :
    ∀ (us : List UnitId) (r : Road) (b : Bool) (w : HeadWork) (keep : UnitId → Bool) (r' : Road),
      r.queue = en :: q → r.work = some w → w.phase = .reconcile →
      HeadWork.unitsLeft w l = us.filter keep →
      (∀ u, r.online u = true → r.awaits u = true ∨ r.nextItem e u ≠ none → keep u = true) →
      Road.offerReconcile e us r b = .changed r' → Decided e l r' ∨ depth r' < depth r
  | [], r, b, w, keep, r', hq, hw, hp, hl, _, h => by
    unfold Road.offerReconcile at h
    split at h <;> cases h
    rcases depth_pump (e := e) r with hs | hd
    · refine .inl (.inl ?_)
      rw [hs]
      unfold Road.offer
      simp only [hq, hw, hp]
      unfold HeadWork.unitsLeft at hl
      rw [hl]
      rfl
    · exact .inr hd
  | u :: rest, r, b, w, keep, r', hq, hw, hp, hl, hk, h => by
    have goOn : ∀ r', (¬ (r.online u = true ∧ (r.awaits u = true ∨ r.nextItem e u ≠ none))) →
        Road.offerReconcile e rest (r.endPart u) true = .changed r' →
        Decided e l r' ∨ depth r' < depth r := by
      intro r' hn h
      have hd : depth (r.endPart u) = depth r := by
        simp [depth, Road.endPart, hw]
      rw [← hd]
      refine offerReconcile_changed en q l rest (r.endPart u) true
        { w with ended := u :: w.ended } (fun v => keep v && !(v == u)) r' hq
        (by simp [Road.endPart, hw]) hp ?_ (fun v ho hv => ?_) h
      · have h1 : HeadWork.unitsLeft { w with ended := u :: w.ended } l =
            (HeadWork.unitsLeft w l).filter fun v => !(v == u) := by
          unfold HeadWork.unitsLeft
          rw [List.filter_filter]
          refine List.filter_congr fun v _ => ?_
          rw [List.contains_cons]
          cases v == u <;> cases v.line == l <;> cases w.ended.contains v <;> rfl
        rw [h1, hl]
        simp [List.filter_filter, Bool.and_comm]
      · have ho' : r.online v = true := ho
        have hv' : r.awaits v = true ∨ r.nextItem e v ≠ none := hv
        rw [hk v ho' hv']
        cases hvu : (v == u) with
        | false => rfl
        | true =>
          rw [eq_of_beq hvu] at ho' hv'
          exact absurd ⟨ho', hv'⟩ hn
    have decide : r.online u = true → r.awaits u = true ∨ r.nextItem e u ≠ none → Decided e l r := by
      intro ho hv
      have hkeep := hk u ho hv
      have hoff : r.offer e l = Road.offerReconcile e (u :: rest.filter keep) r false := by
        unfold Road.offer
        simp only [hq, hw, hp]
        unfold HeadWork.unitsLeft at hl
        rw [hl]
        simp [hkeep]
      unfold Road.offerReconcile at hoff
      simp only [ho, Bool.not_true, Bool.false_eq_true, if_false] at hoff
      cases ha : r.awaits u with
      | true =>
        simp only [ha, if_true] at hoff
        exact .inl hoff
      | false =>
        simp only [ha, Bool.false_eq_true, if_false] at hoff
        cases hn : r.nextItem e u with
        | none => rcases hv with h | h
                  · rw [ha] at h; cases h
                  · exact absurd hn h
        | some t =>
          rw [hn] at hoff
          exact .inr ⟨t, hoff⟩
    unfold Road.offerReconcile at h
    split at h
    · rename_i ho
      exact goOn r' (fun x => by simp [x.1] at ho) h
    · rename_i ho
      have ho' : r.online u = true := by simpa using ho
      split at h
      · rename_i ha
        split at h <;> cases h
        exact .inl (decide ho' (.inl ha))
      · rename_i ha
        split at h
        · rename_i t ht
          split at h <;> cases h
          exact .inl (decide ho' (.inr (by rw [ht]; simp)))
        · rename_i hn
          exact goOn r' (fun x => by rcases x.2 with y | y
                                     · exact ha y
                                     · exact y hn) h

theorem offer_changed {r r' : Road} {l : Fin 4} (h : r.offer e l = .changed r') :
    Decided e l r' ∨ depth r' < depth r := by
  have h0 := h
  unfold Road.offer at h
  split at h
  · rename_i en q w hq hw
    split at h
    · rename_i hp
      exact offerFetch_changed en q l w hp _ r false w (fun _ => true) r' hq hw hp rfl
        (by simp [HeadWork.itemsLeft]) (fun _ _ => rfl) h
    · rename_i hp
      exact offerReconcile_changed en q l _ r false w (fun _ => true) r' hq hw hp
        (by simp [HeadWork.unitsLeft]) (fun _ _ _ => rfl) h
  · cases h

/-- What a line takes after looks enough is what the head entry then has for it. -/
theorem takeTransfer_takes (l : Fin 4) :
    ∀ (n : Nat) (r : Road), depth r + 2 ≤ n → ∀ r' o, takeTransfer e l n r = (r', o) →
      match o with
      | some t => r'.offer e l = .take t
      | none => r'.offer e l = .wait
  | 0, r, hn, _, _, _ => by omega
  | n + 1, r, hn, r', o, h => by
    unfold takeTransfer at h
    split at h
    · rename_i t ht
      cases h
      exact ht
    · rename_i ht
      cases h
      exact ht
    · rename_i r1 hc
      rcases offer_changed hc with hd | hd
      · cases n with
        | zero => omega
        | succ m =>
          unfold takeTransfer at h
          rcases hd with hd | ⟨t, hd⟩
          · rw [hd] at h
            cases h
            exact hd
          · rw [hd] at h
            cases h
            exact hd
      · exact takeTransfer_takes l n r1 (by omega) r' o h

theorem depth_looks (r : Road) : depth r + 2 ≤ r.looks := by
  unfold depth Road.looks
  split
  · omega
  · split <;> omega

/-! ### What the head entry offers does not hang on the lines -/

theorem offerFetch_lines (en : Entry) (w : HeadWork) (k : Fin 4) (x : Line) :
    ∀ (its : List FetchItem) (r : Road) (b : Bool),
      (∀ t, r.offerFetch e en w its b = .take t →
        (r.setLine k x).offerFetch e en w its b = .take t) ∧
      (r.offerFetch e en w its b = .wait → (r.setLine k x).offerFetch e en w its b = .wait)
  | [], r, b => by
    unfold Road.offerFetch
    cases b <;> simp
  | it :: rest, r, b => by
    have ih := offerFetch_lines en w k x rest
      (r.endFetch fun y => y.unit == it.unit && y.slot == it.slot) true
    unfold Road.offerFetch
    rw [show (r.setLine k x).passedOver en w it = r.passedOver en w it from rfl,
      show (r.setLine k x).awaits it.unit = r.awaits it.unit from rfl,
      show (r.setLine k x).fetchOf it = r.fetchOf it from rfl]
    split
    · exact ih
    · split
      · cases b <;> simp
      · split <;> cases b <;> simp

theorem offerReconcile_lines (k : Fin 4) (x : Line) :
    ∀ (us : List UnitId) (r : Road) (b : Bool),
      (∀ t, Road.offerReconcile e us r b = .take t →
        Road.offerReconcile e us (r.setLine k x) b = .take t) ∧
      (Road.offerReconcile e us r b = .wait → Road.offerReconcile e us (r.setLine k x) b = .wait)
  | [], r, b => by
    unfold Road.offerReconcile
    cases b <;> simp
  | u :: rest, r, b => by
    have ih := offerReconcile_lines k x rest (r.endPart u) true
    unfold Road.offerReconcile
    rw [show (r.setLine k x).online u = r.online u from rfl,
      show (r.setLine k x).awaits u = r.awaits u from rfl,
      show (r.setLine k x).nextItem e u = r.nextItem e u from rfl]
    split
    · exact ih
    · split
      · cases b <;> simp
      · split
        · cases b <;> simp
        · exact ih

/-- What a line takes, and that it takes nothing, stays so whatever the lines hold. -/
theorem offer_lines (r : Road) (l k : Fin 4) (x : Line) :
    (∀ t, r.offer e l = .take t → (r.setLine k x).offer e l = .take t) ∧
      (r.offer e l = .wait → (r.setLine k x).offer e l = .wait) := by
  unfold Road.offer
  rw [show (r.setLine k x).queue = r.queue from rfl, show (r.setLine k x).work = r.work from rfl]
  split
  · split
    · exact offerFetch_lines _ _ k x _ r false
    · exact offerReconcile_lines k x _ r false
  · simp

/-! ### Rounds and work opportunities -/

/-- A line that begins its next round polls the address R50 gives. -/
theorem startRound_polls (s r : Road) (l : Fin 4) (hp : (r.line l).pointer = (s.line l).pointer)
    (hi : (r.line l).inFlight = none) : PollsNext s (r.startRound l) l := by
  have planned : ∀ a, a ∈ r.plannedOn l ↔ (r.link ⟨l, a⟩).kind ≠ none := by
    intro a
    simp [Road.plannedOn, Option.isSome_iff_ne_none]
  have links : ∀ u, (r.startRound l).link u = r.link u := by
    intro u
    unfold Road.startRound
    split <;> rfl
  have sorted : (r.plannedOn l).Pairwise (· < ·) :=
    (List.pairwise_lt_finRange 12).filter _
  have head : ∀ b, (r.plannedOn l).head? = some b →
      (r.link ⟨l, b⟩).kind ≠ none ∧ ∀ c, c < b → (r.link ⟨l, c⟩).kind = none := by
    intro b hb
    obtain ⟨rest, hr⟩ : ∃ rest, r.plannedOn l = b :: rest := by
      cases hl : r.plannedOn l with
      | nil => rw [hl] at hb; cases hb
      | cons y ys => rw [hl] at hb; cases hb; exact ⟨ys, rfl⟩
    refine ⟨(planned b).mp (by rw [hr]; exact List.mem_cons_self), fun c hc => ?_⟩
    by_contra hn
    have hm := (planned c).mpr hn
    rw [hr] at hm sorted
    rcases List.mem_cons.mp hm with h | h
    · omega
    · have := (List.pairwise_cons.mp sorted).1 c h
      omega
  have find : ∀ p b, (r.plannedOn l).find? (fun a => p.val < a.val) = some b →
      (r.link ⟨l, b⟩).kind ≠ none ∧ p < b ∧ ∀ c, p < c → c < b → (r.link ⟨l, c⟩).kind = none := by
    intro p b hb
    obtain ⟨hpb, as, bs, hl, has⟩ := List.find?_eq_some_iff_append.mp hb
    refine ⟨(planned b).mp (by rw [hl]; simp), by simpa using hpb, fun c hpc hcb => ?_⟩
    by_contra hn
    have hm := (planned c).mpr hn
    rw [hl] at hm sorted
    rcases List.mem_append.mp hm with h | h
    · have := has c h
      simp at this
      omega
    · rcases List.mem_cons.mp h with h | h
      · omega
      · have := (List.pairwise_cons.mp (List.pairwise_append.mp sorted).2.1).1 c h
        omega
  constructor
  · intro a ha
    rw [links] at ha
    have hne : (r.plannedOn l).head? ≠ none := by
      rw [ne_eq, List.head?_eq_none_iff]
      exact List.ne_nil_of_mem ((planned a).mpr ha)
    have goes : ∀ b, r.nextPoll l = some b → (r.link ⟨l, b⟩).kind ≠ none →
        ((∃ p, (s.line l).pointer = some p ∧ p < b ∧
            ∀ c, p < c → c < b → (r.link ⟨l, c⟩).kind = none) ∨
          (∀ p, (s.line l).pointer = some p → ∀ c, p < c → (r.link ⟨l, c⟩).kind = none) ∧
            ∀ c, c < b → (r.link ⟨l, c⟩).kind = none) →
        ∃ b, ((r.startRound l).link ⟨l, b⟩).kind ≠ none ∧
          ((r.startRound l).line l).pointer = some b ∧
          ((r.startRound l).line l).inFlight = some { addr := b, sent := .poll, ms := 0 } ∧
          ((∃ p, (s.line l).pointer = some p ∧ p < b ∧
              ∀ c, p < c → c < b → ((r.startRound l).link ⟨l, c⟩).kind = none) ∨
            (∀ p, (s.line l).pointer = some p → ∀ c, p < c →
              ((r.startRound l).link ⟨l, c⟩).kind = none) ∧
              ∀ c, c < b → ((r.startRound l).link ⟨l, c⟩).kind = none) := by
      intro b hb hk hw
      refine ⟨b, ?_⟩
      simp only [links]
      refine ⟨hk, ?_, ?_, hw⟩ <;> unfold Road.startRound <;> rw [hb] <;> simp [Road.send]
    cases hs : (s.line l).pointer with
    | none =>
      cases hh : (r.plannedOn l).head? with
      | none => exact absurd hh hne
      | some b =>
        have hb : r.nextPoll l = some b := by
          unfold Road.nextPoll
          rw [hp, hs]
          exact hh
        rw [hs] at goes
        exact goes b hb (head b hh).1 (.inr ⟨fun p hc => (by cases hc), (head b hh).2⟩)
    | some p =>
      rw [hs] at goes
      cases hf : (r.plannedOn l).find? (fun a => p.val < a.val) with
      | some b =>
        have hb : r.nextPoll l = some b := by
          unfold Road.nextPoll
          simp only [hp, hs, hf]
          rfl
        exact goes b hb (find p b hf).1 (.inl ⟨p, rfl, (find p b hf).2⟩)
      | none =>
        cases hh : (r.plannedOn l).head? with
        | none => exact absurd hh hne
        | some b =>
          have hb : r.nextPoll l = some b := by
            unfold Road.nextPoll
            simp only [hp, hs, hf, hh]
            rfl
          refine goes b hb (head b hh).1 (.inr ⟨fun q hq c hc => ?_, (head b hh).2⟩)
          cases hq
          by_contra hn
          have := List.find?_eq_none.mp hf c ((planned c).mpr hn)
          simp at this
          omega
  · intro hn
    have hl : r.plannedOn l = [] := by
      refine List.eq_nil_iff_forall_not_mem.mpr fun a ha => (planned a).mp ha ?_
      rw [← links]
      exact hn a
    have hb : r.nextPoll l = none := by
      unfold Road.nextPoll
      rw [hl]
      cases (r.line l).pointer <;> rfl
    unfold Road.startRound
    rw [hb]
    exact hi

/-- Beginning a round leaves links, orders, transfers and the offer. -/
theorem startRound_rest (r : Road) (l : Fin 4) :
    (∀ u, (r.startRound l).link u = r.link u) ∧
      ((r.startRound l).line l).orders = (r.line l).orders ∧
      ((r.startRound l).line l).transfer = (r.line l).transfer ∧
      (r.offer e l = .wait → (r.startRound l).offer e l = .wait) := by
  unfold Road.startRound
  split
  · simp
  · refine ⟨fun _ => rfl, by simp [Road.send], by simp [Road.send], fun h => ?_⟩
    exact (offer_lines _ l _ _).2 ((offer_lines r l _ _).2 h)

theorem oldestOrder_congr {r t : Road} {l : Fin 4} (hl : ∀ u, t.link u = r.link u)
    (ho : (t.line l).orders = (r.line l).orders) : oldestOrder t l = r.orderDue l := by
  unfold oldestOrder Road.orderDue Road.online
  rw [ho]
  simp only [hl]

/-- What follows an exchange that has ended on a line, the rest of its event done: `r` is the road then,
and `s` the one before the event (R50, R51). -/
theorem afterExchange_goesOn (s r : Road) (l : Fin 4) (sent : Sent)
    (hp : (r.line l).pointer = (s.line l).pointer) (hi : (r.line l).inFlight = none)
    (held : sent ≠ .work → ∀ x, (s.line l).transfer = some x →
      ((r.link ⟨l, x.addr⟩).state = .lost → (s.link ⟨l, x.addr⟩).state = .lost) →
      (r.line l).transfer = some x)
    (ended : sent = .poll → (∀ x, (s.line l).transfer = some x →
      (r.link ⟨l, x.addr⟩).state = .lost ∧ (s.link ⟨l, x.addr⟩).state ≠ .lost) →
      (r.line l).transfer = none)
    (bare : (s.line l).transfer = none → (r.line l).transfer = none) :
    LineGoesOn e s (r.afterExchange e l sent) l sent := by
  have round : ∀ r', LinesKept r r' → PollsNext s (r'.startRound l) l := fun r' hk =>
    startRound_polls s r' l (by rw [hk.line]; exact hp) (by rw [hk.line]; exact hi)
  have resumes : ∀ t : Road, (∀ u, t.link u = r.link u) →
      ((t.line l).transfer = (r.line l).transfer ∨ (r.line l).transfer = none) → sent ≠ .work →
      ∀ x, (s.line l).transfer = some x →
      ((t.link ⟨l, x.addr⟩).state = .lost → (s.link ⟨l, x.addr⟩).state = .lost) →
      (t.line l).transfer = some x := by
    intro t hl ht hw x hx hk
    rw [hl] at hk
    have h1 := held hw x hx hk
    rcases ht with ht | ht
    · rw [ht, h1]
    · rw [ht] at h1
      cases h1
  by_cases hpoll : sent = .poll
  · subst hpoll
    show LineGoesOn e s (r.workOpportunity e l) l .poll
    unfold Road.workOpportunity
    cases ho : r.orderDue l with
    | some o =>
      dsimp only
      have h1 : oldestOrder (r.send l o.addr (.gateOrder o.dir)) l = some o :=
        (oldestOrder_congr (t := r.send l o.addr (.gateOrder o.dir))
            (r := r) (fun _ => rfl) (by simp [Road.send])).trans ho
      exact {
        round := fun h => absurd rfl h
        order := fun _ o' h => by
          rw [h1] at h
          cases h
          simp [Road.send, hp]
        working := fun _ h => by rw [h1] at h; cases h
        noWork := fun _ h => by rw [h1] at h; cases h
        resumed := resumes _ (fun _ => rfl) (.inl (by simp [Road.send]))
        taken := fun _ h => by rw [h1] at h; cases h
        untaken := fun _ h => by simp [Road.send, bare h] }
    | none =>
      dsimp only
      cases hx : (r.line l).transfer with
      | some x =>
        dsimp only
        have h1 : oldestOrder (r.send l x.addr .work) l = none :=
          (oldestOrder_congr (t := r.send l x.addr .work)
            (r := r) (fun _ => rfl) (by simp [Road.send])).trans ho
        exact {
          round := fun h => absurd rfl h
          order := fun _ o' h => by rw [h1] at h; cases h
          working := fun _ _ y h => by
            have : ((r.send l x.addr .work).line l).transfer = some x := by simp [Road.send, hx]
            rw [this] at h
            cases h
            simp [Road.send, hp]
          noWork := fun _ _ h => by simp [Road.send, hx] at h
          resumed := resumes _ (fun _ => rfl) (.inl (by simp [Road.send]))
          taken := fun _ _ h => by
            have := ended rfl h
            rw [hx] at this
            cases this
          untaken := fun h _ => by
            rcases h with h | h
            · exact absurd rfl h
            · exact absurd h1 h }
      | none =>
        dsimp only
        unfold Road.newTransfer
        have kept := takeTransfer_kept (e := e) l r.looks r
        have takes := takeTransfer_takes (e := e) l r.looks r (depth_looks r)
        generalize takeTransfer e l r.looks r = y at kept takes ⊢
        obtain ⟨r', o⟩ := y
        have takes := takes r' o rfl
        have due : r'.orderDue l = none := by
          rw [← ho]
          unfold Road.orderDue Road.online
          rw [kept.line]
          simp only [kept.link]
        cases o with
        | some t =>
          dsimp only at kept takes ⊢
          have h1 : oldestOrder
              ((r'.setLine l { r'.line l with transfer := some t }).send l t.addr .work) l = none :=
            (oldestOrder_congr (t := (r'.setLine l { r'.line l with transfer := some t }).send l t.addr .work)
            (r := r') (fun _ => rfl) (by simp [Road.send])).trans due
          have h2 : (((r'.setLine l { r'.line l with transfer := some t }).send l t.addr .work).line
              l).transfer = some t := by simp [Road.send]
          exact {
            round := fun h => absurd rfl h
            order := fun _ o' h => by rw [h1] at h; cases h
            working := fun _ _ y h => by
              rw [h2] at h
              cases h
              simp [Road.send, kept.line, hp]
            noWork := fun _ _ h => by rw [h2] at h; cases h
            resumed := resumes _ (fun u => kept.link u) (.inr hx)
            taken := fun _ _ _ =>
              have given := (offer_lines _ l _ _).1 t ((offer_lines r' l _ _).1 t takes)
              .inl ⟨t, given, h2, (Items.offer_spec e _ l).1 t given⟩
            untaken := fun h _ => by
              rcases h with h | h
              · exact absurd rfl h
              · exact absurd h1 h }
        | none =>
          dsimp only at kept takes ⊢
          obtain ⟨hl, hor, htr, hof⟩ := startRound_rest (e := e) r' l
          have h1 : oldestOrder (r'.startRound l) l = none := by
            rw [oldestOrder_congr hl hor, due]
          have h2 : ((r'.startRound l).line l).transfer = none := by rw [htr, kept.line, hx]
          exact {
            round := fun h => absurd rfl h
            order := fun _ o' h => by rw [h1] at h; cases h
            working := fun _ _ y h => by rw [h2] at h; cases h
            noWork := fun _ _ _ => round r' kept
            resumed := resumes _ (fun u => (hl u).trans (kept.link u)) (.inr hx)
            taken := fun _ _ _ => .inr ⟨hof takes, h2, (Items.offer_spec e _ l).2 (hof takes)⟩
            untaken := fun h _ => by
              rcases h with h | h
              · exact absurd rfl h
              · exact absurd h1 h }
  · have hs : r.afterExchange e l sent = r.startRound l := by
      cases sent with
      | poll => exact absurd rfl hpoll
      | gateOrder _ => rfl
      | work => rfl
    rw [hs]
    obtain ⟨hl, hor, htr, hof⟩ := startRound_rest (e := e) r l
    exact {
      round := fun _ => round r ⟨rfl, rfl⟩
      order := fun h => absurd h hpoll
      working := fun h => absurd h hpoll
      noWork := fun h => absurd h hpoll
      resumed := resumes _ hl (.inl htr)
      taken := fun h => absurd h hpoll
      untaken := fun _ h => by rw [htr]; exact bare h }

end Rounds

end Sys2Proof.Machine
end

