-- ==== Sys2Proof/Tests/Slice0.lean ====
section
/-! SUPPORT. Tests: the checks of WellFormed, the bytes of requests, a few steps, and for each statement
with premises a state and operands that meet them. -/

namespace Sys2Proof.Tests

open Sys2Proof Sys2Proof.Machine

set_option Elab.async false

/-! ### WellFormed refuses an ill-formed term at each check -/

theorem test_body_too_long : wellFormed (.post ⟨List.replicate 65536 0, false⟩) = false := by
  show decide ((List.replicate 65536 (0 : Byte)).length ≤ 65535) = false
  rw [List.length_replicate]
  decide
theorem test_known_code_is_no_unknown_code : wellFormed (.unknownRequestCode 0x10 ⟨[], false⟩) = false := by
  decide
theorem test_read_code_is_no_unknown_code : wellFormed (.unknownRequestCode 0x00 ⟨[], false⟩) = false := by
  decide
theorem test_read_of_no_byte : wellFormed (.replyRead ⟨0, false⟩) = false := by decide
theorem test_sign_report_of_seven_slots :
    wellFormed (.status 0 1 (.sign (List.replicate 7 .empty))) = false := by decide
theorem test_gate_report_of_three_slots :
    wellFormed (.status 0 1 (.gate (List.replicate 3 .empty) .isOpen .remote)) = false := by decide
theorem test_severity_eight : wellFormed (.amendData 0 1 0 (some 8) none) = false := by decide
theorem test_five_text_lines :
    wellFormed (.amendData 0 1 0 none (some (List.replicate 5 [65]))) = false := by decide
theorem test_line_of_21 :
    wellFormed (.amendData 0 1 0 none (some [List.replicate 21 65])) = false := by decide
theorem test_line_of_0 : wellFormed (.amendData 0 1 0 none (some [[]])) = false := by decide
theorem test_character_96 : wellFormed (.amendData 0 1 0 none (some [[96]])) = false := by decide
theorem test_good_frame_is_no_error :
    wellFormed (.requestFrameError ⟨[0x40, 0x00, 0x00, 0xC0], false⟩) = false := by decide
theorem test_no_byte_is_no_frame : wellFormed (.requestFrameError ⟨[], false⟩) = false := by decide
theorem test_read_code_is_no_frame_error : wellFormed (.requestFrameError ⟨[0x00], false⟩) = false := by
  decide

/-! ### Transactions as bytes (R193, R202, R203) -/

theorem test_bytes_of_take_attention :
    decodeTransaction [0x40, 0x00, 0x00, 0xC0] false = some (.takeAttention ⟨[], false⟩) := by decide
theorem test_bytes_of_set_time :
    decodeTransaction [0x48, 0x00, 0x04, 0x00, 0x00, 0x03, 0xE8, 0xC9] true =
      some (.setTime ⟨[0x00, 0x00, 0x03, 0xE8], true⟩) := by decide
theorem test_bytes_of_no_request :
    decodeTransaction [0x13, 0x00, 0x00, 0xED] false = some (.lookup ⟨[], false⟩) ∧
      decodeTransaction [0x14, 0x00, 0x00, 0xEC] false =
        some (.unknownRequestCode 0x14 ⟨[], false⟩) := by decide
theorem test_bytes_with_a_bad_sum :
    decodeTransaction [0x40, 0x00, 0x00, 0xC1] false =
      some (.requestFrameError ⟨[0x40, 0x00, 0x00, 0xC1], false⟩) := by decide
theorem test_bytes_of_a_reply_read :
    decodeTransaction [0x00, 0x00, 0x00] false = some (.replyRead ⟨3, false⟩) := by decide

/-! ### Answers as bytes (R43 to R45, R62, R204) -/

/-- An ACK from address 1, and the same with a byte after its sum byte, which is discarded. -/
theorem test_bytes_of_an_ack :
    decodeAnswer 0 [0x01, 0x0C, 0xF3] = .ack 0 0x01 ∧
      decodeAnswer 0 [0x01, 0x0C, 0xF3, 0x77] = .ack 0 0x01 := by decide
theorem test_short_or_wrong_answer_is_none :
    decodeAnswer 2 [0x01, 0x0C] = .noAnswer 2 ∧ decodeAnswer 2 [0x01, 0x0C, 0xF4] = .noAnswer 2 ∧
      decodeAnswer 2 [0x01, 0x02, 0x02, 0x07] = .noAnswer 2 := by decide
theorem test_bytes_of_a_monitor_status :
    decodeAnswer 1 [0x03, 0x02, 0x02, 0x07, 0x00, 0xF2] = .status 1 0x03 (.monitor 7 false) ∧
      decodeAnswer 1 [0x03, 0x02, 0x02, 0x07, 0x00, 0xF2, 0x00, 0x00] =
        .status 1 0x03 (.monitor 7 false) := by decide
/-- An amendment of one text line "A", and the same with a byte after the text frame. -/
theorem test_bytes_of_an_amendment :
    decodeAnswer 0 [0x01, 0x09, 0x05, 0xFF, 0x01, 0x01, 0xF0, 0x01, 0x04, 0x00, 0x01, 0x41, 0xB9] =
        .amendData 0 0x01 5 none (some [[0x41]]) ∧
      decodeAnswer 0 [0x01, 0x09, 0x05, 0xFF, 0x01, 0x01, 0xF0, 0x01, 0x04, 0x00, 0x01, 0x41, 0xB9,
        0x00] = .amendData 0 0x01 5 none (some [[0x41]]) := by decide

/-! ### A small commissioned road -/

/-- Four segments; a SIGN, a GATE and a MONITOR on line 0; one section with that gate, one OUT detector,
one path with that monitor. -/
def plan : Plan :=
  ((((((Plan.empty.setRoad 4).setUnit (⟨0, 0⟩, some (.sign ⟨0, .south, 4⟩ 31))).setUnit
    (⟨0, 1⟩, some (.gate ⟨0, .south, 4⟩ 31 0 10))).setUnit (⟨0, 2⟩, some .monitor)).setSec
    (0, some ⟨1, 2, [0], [⟨0, 0⟩], 1, 1, 1, 60⟩)).setDetector (0, ⟨some (0, .out), 60, 30⟩)).setPath
    (0, some ⟨[1], some ⟨0, 2⟩, [3, 2, 1, 1, 1], 10, 60, 2⟩)

/-- Pass time 1000, valid. -/
def clock : Cru := { State.reset.cru with passTime := 1000, timeValid := true }

/-- PLANNING with that plan. -/
def planned : State := { State.reset with cru := clock, plan := plan }

/-- RUNNING, right after COMMISSION. -/
def run : State :=
  { planned with part := .running, road := Road.cold.commissioned plan State.reset.pins }

/-- RUNNING with the road's records changed. -/
def runWith (f : Road → Road) : State := { run with road := f run.road }

/-- A STATION CLOSURE of segments 1 and 2. -/
def closure : Posting :=
  { state := .active, kind := .closure, authority := .station, first := 1, last := 2, path := none,
    severity := 5, detail := none, urgency := some .immediate, text := [], start := none,
    expiry := none, pin := none, cause := none, source := none }

/-- A DANGER of level 1 on path 0. -/
def danger : Posting :=
  { closure with kind := .danger, last := 1, path := some 0, detail := some 1, urgency := none }

/-- RUNNING with one posting in slot 0, of generation 1 and version 1. -/
def holding (p : Posting) : State := runWith (·.setSlot 0 ⟨1, 1, some p⟩)

/-- The handle of that posting. -/
def handle : Handle := ⟨0, 1⟩

/-- RUNNING with line 0 as given. -/
def online (x : Line) : State := runWith (·.setLine 0 x)

/-- Line 0 with an exchange to address `a + 1`, and a transfer. -/
def lineWith (a : Fin 12) (sent : Sent) (t : Option Transfer) : Line :=
  { pointer := some a, inFlight := some ⟨a, sent, 0⟩, transfer := t, orders := [] }

/-- A transfer to the SIGN at its LOAD, with the text given. -/
def loading (text : List (List Byte)) : Transfer :=
  { addr := 0, slot := 0, overrule := false, step := .load, tries := 0,
    kind := .load { handle := handle, version := 1, kind := .closure, first := 1, last := 2,
                    severity := 5, detail := none, urgency := some .immediate, text := text } }

/-! ### The laws hold on it -/

theorem ticks (s : State) (h : s.pending = []) : Machine.step s = .next s.tick := by
  unfold Machine.step; rw [h]

theorem plan_passes : plan.fault = none := by decide +kernel

theorem run_of_plan : run.road.OfPlan plan :=
  ⟨by decide +kernel, by decide +kernel, by decide +kernel, by decide +kernel⟩

theorem run_part_law : run.PartLaw := ⟨fun h => (by cases h), fun _ => ⟨plan_passes, run_of_plan⟩⟩

theorem run_port_law : run.PortLaw := by unfold State.PortLaw; decide +kernel

theorem reset_port_law : State.reset.PortLaw := by unfold State.PortLaw; decide

theorem reset_clock_law : State.reset.ClockLaw := by unfold State.ClockLaw; decide

theorem run_clock_law : run.ClockLaw := by unfold State.ClockLaw; decide +kernel

/-- A road whose paths and gates link nothing and whose postings are the host's obeys the law of the
links. -/
theorem unlinked (r : Road) (hp : ∀ n, (r.path n).all (·.link.isNone) = true)
    (hg : ∀ g, (r.gate g).all (·.link.isNone) = true)
    (hs : ∀ i, (r.slot i).posting.all (·.authority == .station) = true) : r.LinkLaw := by
  have noPath : ∀ n x h, r.path n = some x → x.link ≠ some h := by
    intro n x h hx hl
    have := hp n
    rw [hx] at this
    simp [hl] at this
  have noGate : ∀ g x h, r.gate g = some x → x.link ≠ some h := by
    intro g x h hx hl
    have := hg g
    rw [hx] at this
    simp [hl] at this
  have host : ∀ i p, (r.slot i).posting = some p → p.authority = .station := by
    intro i p hi
    have := hs i
    rw [hi] at this
    simpa using this
  exact
    { path := fun n x h hx hl => absurd hl (noPath n x h hx)
      gate := fun g x h hx hl => absurd hl (noGate g x h hx)
      once := fun g g' x x' h hx _ hl _ => absurd hl (noGate g x h hx)
      auto := fun i p hi ha => absurd (host i p hi) (by rw [ha]; decide)
      field := fun i p hi ha => absurd (host i p hi) (by rw [ha]; decide)
      own := fun i p hi ha => absurd (host i p hi) ha }

theorem cold_bare : Road.cold.Bare where
  slots i := by simp [Road.slot, vget, Road.cold, Slot.cold]
  reserve := rfl
  queue := rfl
  settle := rfl
  sections i := by simp [Road.sec, vget, Road.cold]
  gates g := by simp [Road.gate, vget, Road.cold]
  paths n := by simp [Road.path, vget, Road.cold]
  lines l := by simp [Road.line, vget, Road.cold, Line.silent]
  inputs i := by simp [Road.input, vget, Road.cold, InputRec.unused]

/-- COMMISSION makes no posting. -/
theorem run_empty (i : Fin 256) : (run.road.slot i).posting = none :=
  Lawful.commissioned_slots plan State.reset.pins Road.cold cold_bare i

theorem run_no_path_link : ∀ n, (run.road.path n).all (·.link.isNone) = true := by decide +kernel

theorem run_no_gate_link : ∀ g, (run.road.gate g).all (·.link.isNone) = true := by decide +kernel

theorem run_link_law : run.road.LinkLaw :=
  unlinked _ run_no_path_link run_no_gate_link fun i => by rw [run_empty i]; rfl

theorem run_postings : run.road.postings = [] := by
  unfold Road.postings
  simp [run_empty]

/-- With a posting of the host's in slot 0. -/
theorem holding_link (p : Posting) (h : p.authority = .station) : (holding p).road.LinkLaw :=
  unlinked _ run_no_path_link run_no_gate_link fun i => by
    show (vget (vset run.road.slots 0 _) i).posting.all _ = true
    rw [vget_vset]
    split
    · simp [h]
    · have := run_empty i
      unfold Road.slot at this
      rw [this]
      rfl

theorem run_danger_law : run.road.DangerLaw := by
  intro i j p q hi
  rw [run_empty i] at hi
  cases hi

theorem run_dir (u : UnitId) : ∀ c ∈ run.road.dirOf u, c = CopySlot.unknown := by
  have h : ∀ i : Fin 48, ∀ c ∈ vget run.road.dir i, c = CopySlot.unknown := by decide +kernel
  exact h (unitIdx u)

theorem run_copy_law : run.road.CopyLaw := by
  have h : ∀ i : Fin 48, ((vget run.road.dir i).filterMap CopySlot.handle?).Nodup := by
    decide +kernel
  exact fun u => h (unitIdx u)

theorem run_current_law : run.road.CurrentLaw := fun u h v hc => by
  have := run_dir u _ hc
  cases this

theorem run_queue_law : run.road.QueueLaw :=
  ⟨by decide +kernel, by decide +kernel, by decide +kernel, by decide +kernel⟩

theorem run_standing_law : run.road.StandingLaw run.env := by
  intro i x g z hx _ hz
  have h : ∀ i : Fin 8, (run.road.sec i).all (fun x => x.state.standing == .toOpen) = true := by
    decide +kernel
  have h' : ∀ g : Fin 16, (run.road.gate g).all (fun z => z.standing == .toOpen) = true := by
    decide +kernel
  have a := h i
  have b := h' g
  rw [hx] at a
  rw [hz] at b
  simp at a b
  rw [a, b]

theorem run_cover_law : run.road.CoverLaw run.env := by
  have open_or_none : ∀ i, run.road.secState i = none ∨ run.road.secState i = some .isOpen := by
    decide +kernel
  have bare : ∀ i, run.road.covered run.env i = false := by
    intro i
    unfold Road.covered
    rw [run_postings]
    cases run.env.plan.sec i <;> rfl
  intro i
  rcases open_or_none i with h | h <;> simp [h, bare i]

/-- An empty queue has no head. -/
theorem headless {r : Road} (h : r.queue = []) : r.HeadLaw := fun en q hq => by
  rw [h] at hq
  cases hq

/-- The gate law, tested. -/
theorem gate_law_of {e : Env} {r : Road}
    (h : ∀ i, (r.secState i == some .shutting) = true →
      (sectionGates e i).any (fun g => (r.gate g).all (·.pos != .closed)) = true)
    (h' : ∀ i, (r.secState i == some .opening) = true →
      (sectionGates e i).any (fun g => (r.gate g).all (·.pos != .isOpen)) = true) : r.GateLaw e := by
  refine fun i => ⟨fun hi => ?_, fun hi => ?_⟩
  · obtain ⟨g, hg, ha⟩ := List.any_eq_true.mp (h i (by rw [hi]; rfl))
    exact ⟨g, hg, fun z hz => by rw [hz] at ha; simpa using ha⟩
  · obtain ⟨g, hg, ha⟩ := List.any_eq_true.mp (h' i (by rw [hi]; rfl))
    exact ⟨g, hg, fun z hz => by rw [hz] at ha; simpa using ha⟩

/-- The level law, tested. -/
theorem level_law_of {r : Road}
    (h : ∀ p, (r.path p).all (fun x => x.level == r.tableLevel p) = true) : r.LevelLaw := by
  intro p x hx
  have := h p
  rw [hx] at this
  simpa using this

theorem run_lines (l : Fin 4) : run.road.line l =
    if l = 0 then { pointer := some 0, inFlight := some ⟨0, .poll, 0⟩, transfer := none, orders := [] }
    else { pointer := none, inFlight := none, transfer := none, orders := [] } := by
  revert l
  decide +kernel

theorem run_links : ∀ l a, (run.road.link ⟨l, a⟩).kind = (plan.unit ⟨l, a⟩).map PlanUnit.kind ∧
    (run.road.link ⟨l, a⟩).state ≠ .online := by decide +kernel

/-- The line law, right after COMMISSION. -/
theorem run_line_law : run.LineLaw := by
  have flying : ∀ l ex, (run.road.line l).inFlight = some ex → l = 0 ∧ ex = ⟨0, .poll, 0⟩ := by
    intro l ex h
    rw [run_lines] at h
    split at h
    · rename_i hl
      cases h
      exact ⟨hl, rfl⟩
    · cases h
  exact ⟨fun _ _ u => (run_links u.line u.addr).1,
    { busy := by decide +kernel
      planned := fun l ex h => by obtain ⟨rfl, rfl⟩ := flying l ex h; decide +kernel
      polls := fun l ex h _ => by obtain ⟨rfl, rfl⟩ := flying l ex h; decide +kernel
      orders := fun l ex d h hd => by obtain ⟨rfl, rfl⟩ := flying l ex h; cases hd
      works := fun l ex h hw => by obtain ⟨rfl, rfl⟩ := flying l ex h; cases hw
      transfer := fun l x h => by
        rw [run_lines] at h
        split at h <;> cases h
      online := fun u h => absurd h (run_links u.line u.addr).2 }⟩

theorem run_gate_law : run.road.GateLaw run.env := gate_law_of (by decide +kernel) (by decide +kernel)

theorem run_level_law : run.road.LevelLaw := level_law_of (by decide +kernel)

/-! ### A few steps -/

theorem test_fetch_word_spells_nothing : State.reset.withFetchWord 8 0x40 = State.reset := rfl

theorem test_take_attention_after_reset :
    (match exec (.takeAttention ⟨[], false⟩) State.reset with
      | .next t => t.port.reply == some { code := .done, body := .attention 1 .attended } &&
        t.road.flags == 0 && t.port.out == [0x01, 0x00, 0x00, 0x00]
      | _ => false) = true := by decide +kernel

theorem test_reply_frame_of_read_time :
    (Reply.mk .done (.time 1000 true .cold)).frame =
      [0x00, 0x00, 0x06, 0x00, 0x00, 0x03, 0xE8, 0x01, 0x00, 0x0E] := by decide

theorem test_plan_road_sets_four_segments :
    (match exec (.planRoad ⟨[4], false⟩) State.reset with
      | .next t => t.plan.road == some 4 && t.port.state == .unread
      | _ => false) = true := by decide +kernel

theorem test_commission_polls_the_sign :
    (match exec (.commission ⟨[], false⟩) planned with
      | .next t => (t.road.line 0).sending == [[0x01, 0x01, 0xFE]] && t.part == .running
      | _ => false) = true := by decide +kernel

theorem test_first_status_puts_the_monitor_online :
    (match exec (.status 0 0x03 (.monitor 7 false)) (online (lineWith 2 .poll none)) with
      | .next t => t.road.online ⟨0, 2⟩ && t.road.watchOf 0 == some .quiet &&
        (t.road.line 0).inFlight.isSome
      | _ => false) = true := by decide +kernel

theorem test_load_frame_of_a_closure :
    (loading []).frames =
      [[0x01, 0x03, 0x00, 0x01, 0x01, 0x00, 0x01, 0x02, 0x05, 0xFF, 0x01, 0x00, 0xF2]] := by
  decide

theorem test_stopped_detector_rise_moves_the_pin_alone :
    (match exec (.detectorRise 3) { State.reset with cru := { clock with working := false } } with
      | .next t => vget t.pins 3 == .high && t.cru == { clock with working := false }
      | _ => false) = true := by decide +kernel

theorem test_second_is_queued_by_the_last_millisecond :
    (match Machine.step { State.reset with cru := { clock with phase := 999 } } with
      | .next t => t.pending == [.passTimeSecond] && t.cru.phase == 0
      | _ => false) = true := by decide +kernel

/-! ### Premises of the statements are met -/

theorem test_meets_step_runs_front_command :
    ∃ (c : Instr) (rest : List Instr) (s : State), s.pending = c :: rest :=
  ⟨.mainsLoss, [.mainsReturn], { State.reset with pending := [.mainsLoss, .mainsReturn] }, rfl⟩

/-- The clauses of the millisecond: working and stopped blocks, and a host interval about to run out. -/
theorem test_meets_idle_step :
    State.reset.pending = [] ∧ State.reset.cru.working = true ∧
      ({ State.reset with cru := { clock with working := false } } : State).cru.working = false ∧
      ({ State.reset with port := { Port.cold with interval := 10, timer := some 9999 } } :
        State).port.timer = some 9999 := ⟨rfl, rfl, rfl, rfl⟩

theorem test_meets_clock_and_port_laws :
    State.reset.ClockLaw ∧ State.reset.PortLaw ∧ run.ClockLaw ∧ run.PortLaw ∧
      Machine.step run = .next run.tick :=
  ⟨reset_clock_law, reset_port_law, run_clock_law, run_port_law, ticks run rfl⟩

/-- One RUNNING state meets the premises of every law that is kept. -/
theorem test_meets_laws_kept :
    run.PartLaw ∧ run.PortLaw ∧ run.road.LinkLaw ∧ run.road.DangerLaw ∧ run.road.CopyLaw ∧
      run.road.CurrentLaw ∧ run.road.QueueLaw ∧ run.road.StandingLaw run.env ∧
      run.road.CoverLaw run.env ∧ run.road.HeadLaw ∧ run.road.GateLaw run.env ∧ run.road.LevelLaw ∧
      run.LineLaw ∧ Machine.step run = .next run.tick :=
  ⟨run_part_law, run_port_law, run_link_law, run_danger_law, run_copy_law, run_current_law,
    run_queue_law, run_standing_law, run_cover_law, headless (by decide +kernel), run_gate_law,
    run_level_law, run_line_law, ticks run rfl⟩

theorem test_meets_pool_and_reserve_laws : run.road.PoolLaw ∧ run.road.ReserveLaw := by
  constructor
  · unfold Road.PoolLaw Road.textLines
    have h : run.road.freeLines = 512 := by decide +kernel
    rw [h]
    simp [run_empty, Config.poolLines]
  · unfold Road.ReserveLaw Road.countPostings
    rw [run_postings]
    decide +kernel

/-- A section in a state. -/
def inState (st : SecState) : State := runWith (·.setSec 0 (SectionRec.at st))

theorem in_state_part_law (st : SecState) (h : (inState st).road.OfPlan plan) :
    (inState st).PartLaw := ⟨fun h => (by cases h), fun _ => ⟨plan_passes, h⟩⟩

theorem test_meets_sweep_left :
    (inState .sweep).PartLaw ∧ (inState .sweep).PortLaw ∧
      (inState .sweep).road.secState 0 = some .sweep ∧
      Machine.step (inState .sweep) = .next (inState .sweep).tick :=
  ⟨in_state_part_law _ ⟨by decide +kernel, by decide +kernel, by decide +kernel, by decide +kernel⟩,
    by unfold State.PortLaw; decide +kernel, by decide +kernel, ticks _ rfl⟩

/-- A CLEARABLE section that a RELEASE_SECTION opens. -/
def releasing : State := { inState .clearable with pending := [.releaseSection ⟨[0], false⟩] }

theorem test_meets_opening_by_release :
    releasing.PartLaw ∧ releasing.PortLaw ∧ releasing.road.secState 0 ≠ some .opening ∧
      ∃ t, Machine.step releasing = .next t ∧ t.road.secState 0 = some .opening := by
  refine ⟨⟨fun h => (by cases h), fun _ => ⟨plan_passes,
    ⟨by decide +kernel, by decide +kernel, by decide +kernel, by decide +kernel⟩⟩⟩,
    by unfold State.PortLaw; decide +kernel, by decide +kernel, ?_⟩
  have h : (match Machine.step releasing with
    | .next t => t.road.secState 0 == some .opening
    | _ => false) = true := by decide +kernel
  revert h
  cases hs : Machine.step releasing with
  | next t => intro h; exact ⟨t, rfl, by simpa using h⟩
  | fault f => intro h; cases h
  | refused f => intro h; cases h

/-- A posting pinned to the last pass time of all. -/
def pinned : State := holding { closure with pin := some 4294967295 }

theorem test_meets_pinned_posting_stays :
    pinned.PartLaw ∧ pinned.PortLaw ∧ pinned.road.LinkLaw ∧ Pinned pinned.road 0 1 4294967295 ∧
      Machine.step pinned = .next pinned.tick ∧ pinned.tick.cru.passTime < 4294967295 :=
  ⟨⟨fun h => (by cases h), fun _ => ⟨plan_passes,
      ⟨by decide +kernel, by decide +kernel, by decide +kernel, by decide +kernel⟩⟩⟩,
    by unfold State.PortLaw; decide +kernel,
    holding_link _ rfl,
    ⟨by decide +kernel, { closure with pin := some 4294967295 }, 4294967295, by decide +kernel, rfl,
      rfl, le_refl _⟩,
    ticks _ rfl, by decide +kernel⟩

theorem test_meets_decode_of_encode :
    wellFormed (.abort ⟨[], true⟩) = true ∧ encodeRequest (.abort ⟨[], true⟩) = some [0x39, 0x00, 0x00, 0xC7] ∧
      wellFormed (.lookup ⟨List.replicate 300 7, false⟩) = true ∧
      (encodeRequest (.lookup ⟨List.replicate 300 7, false⟩)).isSome = true := by decide +kernel

/-! #### The station port -/

/-- A port in a state, with a reply. -/
def port (st : PortState) (rep : Option Reply) : State :=
  { State.reset with port := { Port.cold with state := st, reply := rep } }

/-- A port whose SETTLE has just ended at its timeout. -/
def overtakenPort : State :=
  { State.reset with port := { Port.cold with state := .unread, overtaken := true,
                                              reply := some { code := .timeout, body := .ahead 1 } } }

/-- A controller without mains. -/
def dark : State :=
  { State.reset with cru := { clock with mains := false, mainsLost := true, working := false } }

theorem test_meets_untaken_transactions :
    (port .busy none).cru.working = true ∧ (port .busy none).port.state ≠ .ready ∧
      (port .busy none).port.state = .busy ∧ (0x38 : Byte) ≠ 0x39 ∧
      (port .unread none).port.state ≠ .busy ∧ (port .unread none).port.state ≠ .ready ∧
      dark.cru.working = false ∧ overtakenPort.port.state = .unread ∧
      overtakenPort.port.overtaken = true := by decide

theorem test_meets_part_state_then_form :
    Taking State.reset ∧ Taking run ∧ State.reset.part = .planning ∧ run.part = .running ∧
      inRunning (.post ⟨[], false⟩) = true ∧ inPlanning (.planRoad ⟨[4], false⟩) = true ∧
      requestParts (.post ⟨[], false⟩) = some (0x10, []) ∧
      requestParts (.planRoad ⟨[65], false⟩) = some (0x50, [65]) ∧ goodForm (.planRoad ⟨[65], false⟩) = false ∧
      goodForm (.planRoad ⟨[0], false⟩) = false ∧ goodForm (.post ⟨[], false⟩) = false := by
  unfold Taking; decide +kernel

theorem test_meets_requests_on_a_ready_port :
    Taking State.reset ∧ Taking planned ∧ Taking run ∧ State.reset.part = .planning ∧
      run.part = .running := by
  unfold Taking; decide +kernel

/-- A reply of 10 bytes, released at its sum byte and one byte before. -/
theorem test_meets_reply_reads :
    (port .unread (some (.mk .done (.time 0 false .cold)))).cru.working = true ∧
      (Reply.mk .done (.time 0 false .cold)).frame.length = 10 ∧ 10 ≤ 10 ∧ 10 < 11 ∧
      (port .busy none).port.state ≠ .unread ∧ overtakenPort.port.state = .unread ∧
      overtakenPort.port.overtaken = true := by decide

theorem test_meets_take_attention_again :
    Taking { State.reset with road := ({ State.reset.road with flags := 0 }).raise .unitLost } := by
  unfold Taking; decide

theorem test_meets_set_enables_refusals :
    64 ≤ (64 : Byte).toNat ∧ ¬ 64 ≤ (63 : Byte).toNat ∧ 2 ≤ (2 : Byte).toNat ∧
      ¬ 2 ≤ (1 : Byte).toNat := by decide

/-- The settings at the ends of their ranges, and the three cases of UNATTEND. -/
theorem test_meets_attend_and_unattend :
    (10 ≤ 10 ∧ 10 ≤ 3600 ∧ 10 ≤ 3600 ∧ 3600 ≤ 3600) ∧ (1 ≤ 9 ∧ 9 ≤ 9) ∧
      (3600 < 3601 ∧ 65535 < 65536) ∧
      ({ State.reset with port := { Port.cold with enables := 1 } } : State).road.flags &&&
        1 ≠ 0 ∧
      State.reset.road.flags &&& State.reset.port.enables = 0 ∧
      State.reset.port.mode = .attended ∧
      ({ State.reset with port := { Port.cold with mode := .unattended } } : State).port.mode =
        .unattended := by decide

theorem test_meets_host_silence :
    ({ run with port := { Port.cold with interval := 10, timer := some 10000 } } : State).port.timer =
      some 10000 ∧ 10 * 1000 ≤ 10000 ∧ 9999 < 10 * 1000 ∧ run.cru.working = true ∧
      (run.road.path 0).isSome = true ∧ run.port.timer = none ∧ dark.cru.working = false := by
  decide +kernel

theorem test_meets_set_time :
    Taking run ∧ 4294967295 ≤ 4294967295 ∧ 0 ≤ 4294967295 ∧ run.part = .running ∧
      State.reset.part = .planning ∧ run.road.settle = none ∧ run.road.LinkLaw :=
  ⟨by unfold Taking; decide +kernel, by decide, by decide, rfl, rfl, by decide +kernel,
    run_link_law⟩

/-! #### Supply and starts -/

/-- A controller whose reset pin is held. -/
def heldStopped : State :=
  { State.reset with cru := { clock with pinHeld := true, working := false } }

theorem test_meets_stops_and_starts :
    run.cru.working = true ∧ run.cru.mains = true ∧ dark.cru.working = false ∧
      dark.cru.mains = false ∧ dark.cru.pinHeld = false ∧ heldStopped.cru.working = false ∧
      heldStopped.cru.mains = true ∧ dark.cru.intact = true ∧
      ({ dark with cru := { dark.cru with intact := false } } : State).cru.intact = false ∧
      ({ dark with cru := { dark.cru with pinHeld := true } } : State).cru.pinHeld = true := by
  decide +kernel

/-- The plan with a lead of 0 for its section. -/
def atOncePlan : Plan := plan.setSec (0, some ⟨1, 2, [0], [⟨0, 0⟩], 0, 1, 1, 60⟩)

/-- RUNNING without mains, under a plan, its section in a state. -/
def darkIn (p : Plan) (st : SecState) : State :=
  { inState st with plan := p, cru := dark.cru }

theorem dark_part_law (p : Plan) (st : SecState) (hp : p.fault = none)
    (h : (darkIn p st).road.OfPlan p) : (darkIn p st).PartLaw :=
  ⟨fun h => (by cases h), fun _ => ⟨hp, h⟩⟩

/-- A warm start under the part law: a NOTICE section whose L is 0, one whose L is not, and a path
with an ACTIVE danger posting. -/
theorem test_meets_warm_start :
    (darkIn plan .notice).PartLaw ∧ (darkIn atOncePlan .notice).PartLaw ∧
      (darkIn plan .notice).part = .running ∧ (darkIn plan .notice).cru.intact = true ∧
      (darkIn plan .notice).road.secState 0 = some .notice ∧
      (plan.sec 0).map (·.lead) = some 1 ∧ (atOncePlan.sec 0).map (·.lead) = some 0 ∧
      (atOncePlan.sec 0).map (·.gates) = some [0] ∧
      (atOncePlan.sec 0).map (·.approach) = some [⟨0, 0⟩] ∧ (plan.unit ⟨0, 0⟩).isSome = true ∧
      ((holding danger).road.slot 0).posting = some danger ∧ (run.road.path 0).isSome = true :=
  ⟨dark_part_law _ _ plan_passes
      ⟨by decide +kernel, by decide +kernel, by decide +kernel, by decide +kernel⟩,
    dark_part_law _ _ (by decide +kernel)
      ⟨by decide +kernel, by decide +kernel, by decide +kernel, by decide +kernel⟩,
    rfl, rfl, by decide +kernel, by decide +kernel, by decide +kernel, by decide +kernel,
    by decide +kernel, by decide +kernel, by decide +kernel, by decide +kernel⟩

/-- What COMMISSION and a warm start find: lines with and without units, inputs with and without a
section. -/
theorem test_meets_fresh_blocks :
    (plan.unit ⟨0, 0⟩).isSome = true ∧ (∀ b : Fin 12, ¬ b < 0) ∧
      (∀ a, plan.unit ⟨3, a⟩ = none) ∧ (plan.detector 0).assign = some (0, .out) ∧
      (plan.detector 15).assign = none := by decide +kernel

/-! #### The plan -/

/-- Good PLAN bodies at the ends of their ranges. -/
theorem test_meets_plan_requests :
    readBody (within1 1 64) [1] = some 1 ∧ readBody (within1 1 64) [64] = some 64 ∧
      readBody planUnitBody [3, 12, 0] = some (⟨3, 11⟩, none) ∧
      readBody planUnitBody [0, 1, 1, 1, 63, 1, 16, 31, 15, 240] =
        some (⟨0, 0⟩, some (.gate ⟨63, .north, 16⟩ 31 15 240)) ∧
      readBody planSectionBody [7, 0] = some (7, none) ∧
      readBody planDetectorBody [15, 0, 0, 0] = some (15, ⟨none, 60, 30⟩) ∧
      readBody planPathBody [23, 0] = some (23, none) := by decide +kernel

theorem test_meets_read_plan :
    readBody readPlanBody [0] = some .road ∧ readBody readPlanBody [1, 0, 1] = some (.unit ⟨0, 0⟩) ∧
      readBody readPlanBody [2, 7] = some (.sec 7) ∧
      readBody readPlanBody [3, 15] = some (.detector 15) ∧
      readBody readPlanBody [4, 23] = some (.path 23) := by decide +kernel

theorem test_meets_commission :
    Taking planned ∧ planned.part = .planning ∧ planned.cru.timeValid = true ∧
      planned.plan.fault = none ∧ State.reset.cru.timeValid = false ∧
      Plan.empty.fault = some ⟨1, .road, none, none⟩ := by
  unfold Taking; decide +kernel

/-- The gate's record has the travel limit of its GATE unit (R126, R172). -/
theorem test_commission_gives_the_gate_its_travel_limit :
    (match exec (.commission ⟨[], false⟩) planned with
      | .next t => (t.road.gate 0).map GateRec.planned
      | _ => none) = some (⟨0, 1⟩, 0, 10) ∧
      plan.unit ⟨0, 1⟩ = some (.gate ⟨0, .south, 4⟩ 31 0 10) := by decide +kernel

theorem test_meets_decommission :
    Taking run ∧ run.part = .running ∧
      (∀ i, run.road.secState i = none ∨ run.road.secState i = some .isOpen) ∧
      run.road.queue = [] ∧ ∀ i, (run.road.slot i).posting = none := by
  unfold Taking; decide +kernel

theorem test_meets_decommission_not_clear :
    (inState .notice).road.secState 0 = some .notice ∧
      (runWith fun r => { r with queue := [.unit ⟨0, 0⟩] }).road.queue ≠ [] ∧
      (∀ i, pinned.road.secState i = none ∨ pinned.road.secState i = some .isOpen) ∧
      pinned.road.queue = [] ∧
      (pinned.road.slot 0).posting = some { closure with pin := some 4294967295 } ∧
      pinned.cru.passTime < 4294967295 := by decide +kernel

/-- The reply a command leaves in the port. -/
def replyOf (c : Instr) (s : State) : Option Reply :=
  match exec c s with
  | .next t => t.port.reply
  | _ => none

/-- NOT_CLEAR names the section, the queue or the pinned posting in the way (R179). -/
theorem test_decommission_not_clear_bodies :
    replyOf (.decommission ⟨[], false⟩) (inState .notice) =
        some { code := .notClear, body := .blockedBySection 0 .notice } ∧
      replyOf (.decommission ⟨[], false⟩) (runWith fun r => { r with queue := [.unit ⟨0, 0⟩] }) =
        some { code := .notClear, body := .blockedByQueue 1 } ∧
      replyOf (.decommission ⟨[], false⟩) pinned =
        some { code := .notClear, body := .blockedByPin handle 4294967295 } := by decide +kernel

/-! #### Postings -/

/-- The state with the SIGN ONLINE, its copy slots empty. -/
def signed (s : State) : State :=
  { s with road := (s.road.setLink ⟨0, 0⟩ { kind := some .sign, state := .online, misses := 0,
                                            last := none }).setDirOf ⟨0, 0⟩ (List.replicate 8 .empty) }

/-- POST bodies: a CLOSURE of segments 1 and 2; a DANGER of level 4 on path 0; a severity of 8. -/
def postBytes (sev : Byte) : List Byte := [0, 0, 1, 2, sev, 255, 1, 1, 2, 65, 66, 0, 0, 0]

/-- What that body says. -/
def postOf (sev : Nat) : PostBody :=
  { kind := .closure, place := .span 1 2, severity := sev, detail := none,
    urgency := some .immediate, text := [[65, 66]], start := none, expiry := none, pin := none }

theorem post_reads : readBody postBody (postBytes 7) = some (postOf 7) ∧
    readBody postBody (postBytes 8) = some (postOf 8) := by decide +kernel

theorem post_good : GoodPost run (postOf 7) :=
  { place := ⟨fun h => (by cases h), fun _ => ⟨1, 2, rfl, by decide, by decide +kernel⟩⟩
    severity := by decide
    detail := rfl
    urgency := by decide
    text := ⟨by decide, fun h => (by cases h)⟩
    expiry := fun x h => (by cases h) }

theorem post_bad : ¬ GoodPost run (postOf 8) := fun h => absurd h.severity (by decide)

theorem post_no_danger (r : Road) : ¬ DangerTaken r (postOf 7) := fun h => (by cases h.1)

theorem test_meets_post_taken :
    Taking run ∧ run.part = .running ∧ readBody postBody (postBytes 7) = some (postOf 7) ∧
      GoodPost run (postOf 7) ∧ ¬ DangerTaken run.road (postOf 7) ∧ RoomToPost run.road ∧
      (postOf 7).text.length ≤ run.road.freeLines ∧ run.road.LinkLaw :=
  ⟨by unfold Taking; decide +kernel, rfl, post_reads.1, post_good, post_no_danger _,
    by unfold RoomToPost; decide +kernel, by decide +kernel, run_link_law⟩

/-- A DANGER body for path 0, which has one in `holding danger`. -/
def dangerBody : PostBody :=
  { kind := .danger, place := .path 0, severity := 0, detail := some 4, urgency := none, text := [],
    start := some 0, expiry := some 1001, pin := none }

/-- An IMMEDIATE closure that takes effect over an OPEN section whose gate stands OPEN under REMOTE. -/
theorem test_meets_post_shuts :
    (postOf 7).kind = .closure ∧ (postOf 7).urgency = some .immediate ∧
      (run.plan.sec 0).map (fun x => (meets 1 2 x.first x.last, x.gates)) = some (true, [0]) ∧
      run.road.secState 0 = some .isOpen ∧
      (run.road.gate 0).map (fun z => (z.standing, z.key, z.pos)) = some (.toOpen, none, .unknown) ∧
      (match exec (.post ⟨postBytes 7, false⟩) run with
        | .next t => t.road.secState 0 == some .shutting &&
          (t.road.gate 0).map (fun z => (z.standing, z.phase)) == some (.toClose, .idle)
        | _ => false) = true := by decide +kernel

theorem test_meets_post_refusals :
    readBody postBody (postBytes 8) = some (postOf 8) ∧ ¬ GoodPost run (postOf 8) ∧
      readBody postBody [1, 1, 0, 0, 4, 255, 0, 1, 0, 0, 0, 0, 1, 0, 0, 3, 233, 0] =
        some dangerBody ∧
      GoodPost (holding danger) dangerBody ∧ DangerTaken (holding danger).road dangerBody ∧
      ¬ RoomToPost (runWith fun r => { r with reserve := 256 }).road ∧
      (runWith fun r => { r with freeLines := 0 }).road.freeLines < (postOf 7).text.length :=
  ⟨post_reads.2, post_bad, by decide +kernel,
    { place := ⟨fun _ => ⟨0, ⟨[1], some ⟨0, 2⟩, [3, 2, 1, 1, 1], 10, 60, 2⟩, rfl, by decide +kernel⟩,
        fun h => absurd rfl h⟩
      severity := by decide
      detail := ⟨4, le_refl _, rfl⟩
      urgency := by decide
      text := ⟨by decide, fun h => (by cases h)⟩
      expiry := fun x h => by
        cases h
        exact ⟨by decide +kernel, fun t ht => by cases ht; decide⟩ },
    ⟨rfl, 0, danger, 0, by decide +kernel, rfl, by decide, rfl, rfl⟩,
    by unfold RoomToPost; decide +kernel, by decide +kernel⟩

/-- A CHANGE of severity to 6. -/
def changeTo6 : ChangeBody :=
  { handle := some handle, kind := none, span := none, severity := some 6, detail := none,
    urgency := none, text := none, start := none, expiry := none, pin := none,
    removeExpiry := false, removePin := false, overrule := false }

theorem change_made : Changed changeTo6 closure { closure with severity := 6 } :=
  ⟨rfl, rfl, rfl, rfl, rfl, rfl, rfl, rfl, rfl, ⟨rfl, rfl, rfl, rfl⟩⟩

theorem change_good : GoodChange (holding closure) changeTo6 closure { closure with severity := 6 } :=
  { asks := .inl (.inr (.inr (.inl (by decide))))
    removal := ⟨fun h => h.1 rfl, rfl⟩
    kind := fun k h => (by cases h)
    span := fun f l h => (by cases h)
    severity := fun v h => (by cases h; decide)
    given := ⟨by decide, by decide⟩
    detail := rfl
    urgency := by decide
    text := ⟨by decide, fun h => (by cases h)⟩
    pin := fun t old h => (by cases h)
    expiry := fun x h => (by cases h)
    start := fun t x h => (by cases h) }

theorem closure_named : (holding closure).road.named handle = some closure := by decide +kernel

theorem test_meets_change_taken :
    Taking (holding closure) ∧ (holding closure).part = .running ∧
      readBody changeBody [0, 1, 0, 4, 6] = some changeTo6 ∧
      (holding closure).road.named handle = some closure ∧ closure.authority = .station ∧
      closure.state ≠ .retiring ∧ Changed changeTo6 closure { closure with severity := 6 } ∧
      GoodChange (holding closure) changeTo6 closure { closure with severity := 6 } ∧
      changeTo6.start = none ∧ (holding closure).road.amendedCopies handle = 0 ∧
      closure.text.length ≤ (holding closure).road.freeLines + 0 ∧ (holding closure).road.LinkLaw :=
  ⟨by unfold Taking; decide +kernel, rfl, by decide +kernel, closure_named, rfl, by decide,
    change_made, change_good, rfl, by decide +kernel, by decide +kernel,
    holding_link _ rfl⟩

/-- The entry of a posting on an empty queue, with a SIGN that sees the span: POST, CHANGE and RETIRE
leave it at the head. -/
theorem test_meets_entry_made :
    (signed run).road.queue = [] ∧ (signed run).road.work = none ∧
      (signed run).road.online ⟨0, 0⟩ = true ∧ (signed run).road.dirOf ⟨0, 0⟩ ≠ [] ∧
      (match exec (.post ⟨postBytes 7, false⟩) (signed run) with
        | .next t => t.road.concerns run.env handle ⟨0, 0⟩ && t.road.queue == [.posting handle]
        | _ => false) = true ∧
      (match exec (.change ⟨[0, 1, 0, 4, 6], false⟩) (signed (holding closure)) with
        | .next t => t.road.concerns run.env handle ⟨0, 0⟩ && t.road.queue == [.posting handle]
        | _ => false) = true := by decide +kernel

/-- A road on which the SIGN's first copy slot is AMENDED for the posting. -/
def amended : State :=
  { holding closure with road := (holding closure).road.setDirOf ⟨0, 0⟩ [.amended handle 1] }

theorem test_meets_change_and_retire_refusals :
    run.road.named handle = none ∧
      ((holding { closure with authority := .auto }).road.named handle).map (·.authority) =
        some .auto ∧
      ((holding { closure with authority := .field }).road.named handle).map (·.authority) =
        some .field ∧
      ((holding { closure with state := .retiring }).road.named handle).map (·.state) =
        some .retiring ∧
      ((holding { closure with state := .pending }).road.named handle).map (·.state) =
        some .pending ∧
      (pinned.road.named handle).map (·.pin) = some (some 4294967295) ∧
      pinned.cru.passTime < 4294967295 ∧ amended.road.amendedCopies handle = 1 ∧
      amended.road.named handle = some closure ∧
      readBody changeBody [0, 1, 0, 0] = some { changeTo6 with severity := none } ∧
      readBody changeBody [0, 1, 0, 68, 6, 0, 0, 0, 9] = some { changeTo6 with start := some 9 } ∧
      readBody changeBody [0, 1, 0, 32, 1, 1, 65] =
        some { changeTo6 with severity := none, text := some [[65]] } ∧
      (runWith fun r => { r with freeLines := 0 }).road.freeLines + closure.text.length < 1 := by
  decide +kernel

theorem test_meets_change_bad_request :
    ¬ GoodChange (holding closure) { changeTo6 with severity := none } closure closure := fun h => by
  rcases h.asks with h | h | h | h | h
  · simp [TouchesCarried, changeTo6] at h
  · exact h rfl
  · exact h rfl
  · exact h rfl
  · cases h

/-- A class beyond the four beside kind RESTRICTION is a fault of form, ahead of STALE; with no kind
given it waits for the posting (R203, log 19). -/
theorem test_restriction_class_beside_its_kind :
    readBody changeBody [0, 1, 0, 9, 2, 9] = none ∧
      (readBody changeBody [0, 1, 0, 9, 2, 3]).isSome = true ∧
      (readBody changeBody [0, 1, 0, 8, 9]).isSome = true := by decide +kernel

theorem test_meets_retire_and_lookup :
    readBody retireBody [0, 1, 0] = some (some handle, false) ∧
      readBody retireBody [0, 1, 1] = some (some handle, true) ∧
      readBody handleField [0, 1] = some (some handle) ∧
      readBody handleField [255, 15] = some (some ⟨255, 15⟩) ∧
      readBody handleField [0, 16] = some none := by decide +kernel

/-- A queue whose head waits on a fetch. -/
def standing : Road :=
  { run.road with
    queue := [.unit ⟨0, 0⟩, .marker, .posting handle]
    work := some { phase := .fetch, fetch := [⟨⟨0, 0⟩, 0, false⟩], affected := [], ended := [] } }

/-! #### Pass-time events, and postings that an event leaves -/

/-- A closure due to start, one due to expire with a copy CURRENT, and a RETIRING one that nothing names;
the SIGN is ONLINE. -/
def falling : State :=
  let s := signed (holding { closure with state := .pending, start := some 1001 })
  { s with road := ((s.road.setSlot 1 ⟨1, 1, some { closure with expiry := some 1001 }⟩).setSlot 2
      ⟨1, 1, some { closure with state := .retiring }⟩).setCopy ⟨0, 0⟩ 7 (.current ⟨1, 1⟩ 1) }

/-- The same with a standing queue that has the first one's entry behind the marker. -/
def fallingQueued : State :=
  { falling with road := { falling.road with queue := standing.queue, work := standing.work } }

/-- What the next second makes of the three postings, the copy, the flag and the queue. -/
def fallen (s : State) (q : List Entry) : Bool :=
  match exec .passTimeSecond s with
  | .next t =>
    (t.road.slot 0).posting.map (·.state) == some .active &&
    (t.road.slot 1).posting.map (fun p => (p.state, p.cause)) ==
      some (.retiring, some .expired) &&
    (t.road.slot 2).posting == none && (t.road.slot 2).gen == 1 &&
    (t.road.dirOf ⟨0, 0⟩)[7]? == some (.behind ⟨1, 1⟩ 1) &&
    hasFlag t.road.flags .postingExpired && t.road.queue == q
  | _ => false

/-- A start and an expiry on an empty queue and on a standing one, where one entry coalesces. -/
theorem test_meets_up_to_date :
    dueHandles 1001 falling.road = [handle, ⟨1, 1⟩] ∧ dueHandles 1000 falling.road = [] ∧
      falling.road.queue = [] ∧ falling.road.work = none ∧ fallingQueued.road.queue ≠ [] ∧
      (headStep falling.env fallingQueued.road).isNone = true ∧
      fallen falling [.posting handle, .posting ⟨1, 1⟩] = true ∧
      fallen fallingQueued (standing.queue ++ [.posting ⟨1, 1⟩]) = true := by decide +kernel

theorem test_meets_up_to_date_links : falling.road.LinkLaw :=
  unlinked _ run_no_path_link run_no_gate_link fun i => by
    by_cases h2 : i = 2
    · subst h2; decide +kernel
    · by_cases h1 : i = 1
      · subst h1; decide +kernel
      · by_cases h0 : i = 0
        · subst h0; decide +kernel
        · have h : falling.road.slot i = run.road.slot i := by
            show vget (vset (vset (vset run.road.slots 0 _) 1 _) 2 _) i = vget run.road.slots i
            rw [vget_vset_ne _ _ _ _ (Ne.symm h2), vget_vset_ne _ _ _ _ (Ne.symm h1),
              vget_vset_ne _ _ _ _ (Ne.symm h0)]
          rw [h, run_empty i]
          rfl

/-- A RETIRING posting that the SIGN's last slot alone names, and the SIGN's POLL in flight. -/
def fadingCopy : State :=
  { signed (holding { closure with state := .retiring }) with
    road := ((signed (holding { closure with state := .retiring })).road.setCopy ⟨0, 0⟩ 7
      (.behind handle 1)).setLine 0 (lineWith 0 .poll none) }

/-- An answer leaves a named RETIRING posting as it stands, and frees it when the last copy goes. -/
theorem test_meets_slot_kept :
    (match exec (.noAnswer 0) fadingCopy with
      | .next t => t.road.slot 0 == fadingCopy.road.slot 0
      | _ => false) = true ∧
    (match exec (.status 0 1 (.sign (List.replicate 8 .empty))) fadingCopy with
      | .next t => t.road.slot 0 == { fadingCopy.road.slot 0 with posting := none }
      | _ => false) = true := by decide +kernel

/-! #### Scans, walks and readings -/

theorem test_meets_scan :
    readBody scanBody [3, 1, 64, 31, 1, 0, 0, 0] =
        some ⟨3, .north, 64, 31, true, .any, 0, false⟩ ∧
      readBody scanBody [4, 0, 1, 1, 0, 1, 7, 1] = some ⟨4, .south, 1, 1, false, .eq, 7, true⟩ ∧
      3 < run.env.roadLen ∧ run.env.roadLen ≤ 4 := by decide +kernel

theorem test_meets_walk :
    readBody walkBody [0, 31, 7, 7] = some ⟨0, 31, 7, 7⟩ ∧
      readBody walkBody [255, 31, 7, 7] = some ⟨255, 31, 7, 7⟩ ∧
      ((holding closure).road.slot 0).posting = some closure ∧
      (WalkBody.mk 0 31 7 7).passes closure = true := by decide +kernel

theorem test_meets_status_reads :
    readBody unitIn [0, 1] = some ⟨0, 0⟩ ∧ (run.road.link ⟨0, 0⟩).kind = some .sign ∧
      readBody unitIn [3, 12] = some ⟨3, 11⟩ ∧ (run.road.link ⟨3, 11⟩).kind = none ∧
      readBody (index 8) [0] = some 0 ∧ (run.road.sec 0).isSome = true ∧
      (run.plan.sec 0).isSome = true ∧ readBody (index 8) [7] = some 7 ∧ run.road.sec 7 = none ∧
      readBody (index 16) [0] = some 0 ∧ (run.road.gate 0).isSome = true ∧
      readBody (index 16) [15] = some 15 ∧ run.road.gate 15 = none ∧
      readBody (index 24) [0] = some 0 ∧ (run.road.path 0).isSome = true ∧
      (run.plan.path 0).isSome = true ∧ readBody (index 24) [23] = some 23 ∧
      run.road.path 23 = none ∧
      (online { lineWith 1 (.gateOrder .toClose) none with
        orders := [⟨1, .toClose, false, false⟩] }).road.line 0 =
          { lineWith 1 (.gateOrder .toClose) none with orders := [⟨1, .toClose, false, false⟩] } ∧
      ((holding danger).road.slot 0).posting = some danger := by decide +kernel

/-! #### Freeing, appending, sections and gates -/

theorem test_meets_freeing :
    ((holding { closure with state := .retiring }).road.slot 0).posting =
        some { closure with state := .retiring } ∧
      Entry.posting ((holding { closure with state := .retiring }).road.handleAt 0) ∉
        (holding { closure with state := .retiring }).road.queue ∧
      (run.road.slot 255).posting = none := by decide +kernel

theorem test_meets_appending :
    standing.queue ≠ [] ∧ (headStep run.env standing).isNone = true ∧
      Entry.posting handle ∈ standing.queue.tail.reverse.takeWhile (· != .marker) ∧
      Entry.unit ⟨0, 0⟩ ∉ standing.queue.tail.reverse.takeWhile (· != .marker) := by
  decide +kernel

theorem test_meets_section_actions :
    run.road.secState 7 = none ∧ (inState .clearable).road.secState 0 = some .clearable ∧
      (inState .shutting).road.secState 0 = some .shutting ∧ (run.plan.sec 0).isSome = true ∧
      (inState .sweep).road.sec 0 = some (SectionRec.at .sweep) ∧
      (inState .sweep).road.occOf 0 = some .unknown ∧
      (holding closure).road.covered run.env 0 = true ∧ run.road.covered run.env 0 = false := by
  decide +kernel

/-- The gate under REMOTE, in a position and an order phase. -/
def gateAt (pos : PosState) (phase : OrderPhase) : GateRec :=
  { sec := 0, unit := ⟨0, 1⟩, travel := 10, pos := pos, reported := some .moving,
    key := some .remote, standing := .toOpen, phase := phase, timer := none, link := none,
    retried := false }

/-- RUNNING with that gate. -/
def withGate (x : GateRec) : State := runWith (·.setGate 0 x)

/-- A CLEARABLE section released, and a NOTICE section ready at its lead time, each with its gate under
REMOTE at a known position. -/
def released : State :=
  { withGate { gateAt .closed .idle with standing := .toClose } with
    road := (withGate { gateAt .closed .idle with standing := .toClose }).road.setSec 0
      (SectionRec.at .clearable) }

/-- The order of a REMOTE gate at a known position is made: PENDING, with its entry on the line (R128). -/
theorem test_release_orders_the_gate :
    sectionGates released.env 0 = [0] ∧
      released.road.gate 0 = some { gateAt .closed .idle with standing := .toClose } ∧
      (match exec (.releaseSection ⟨[0], false⟩) released with
        | .next t => (t.road.gate 0).map (fun z => (z.standing, z.phase)) == some (.toOpen, .pending) &&
          ((t.road.line 0).orders.map fun o => (o.addr, o.dir)) == [(1, .toOpen)]
        | _ => false) = true := by decide +kernel

/-- A NOTICE section that is ready, its gate OPEN under REMOTE. -/
def noticing : State :=
  { withGate (gateAt .isOpen .idle) with
    road := (withGate (gateAt .isOpen .idle)).road.setSec 0 (SectionRec.at .notice) }

theorem test_notice_orders_the_gate :
    noticing.road.gate 0 = some (gateAt .isOpen .idle) ∧ noticing.road.ready noticing.env 0 = true ∧
      (match exec (.noticeTimerReachesL 0) noticing with
        | .next t => t.road.secState 0 == some .shutting &&
          (t.road.gate 0).map (fun z => (z.standing, z.phase)) == some (.toClose, .pending) &&
          ((t.road.line 0).orders.map fun o => (o.addr, o.dir)) == [(1, .toClose)]
        | _ => false) = true := by decide +kernel

/-- The gate law on a section that shuts. -/
theorem test_meets_gate_law : (inState .shutting).road.GateLaw (inState .shutting).env ∧
    (inState .shutting).road.secState 0 = some .shutting :=
  ⟨gate_law_of (by decide +kernel) (by decide +kernel), by decide +kernel⟩

theorem test_meets_gate_retry_and_travel :
    (withGate (gateAt .jammed .idle)).road.gate 0 = some (gateAt .jammed .idle) ∧
      (withGate (gateAt .fault .idle)).road.gate 0 = some (gateAt .fault .idle) ∧
      (withGate (gateAt .moving .travelling)).road.gate 0 = some (gateAt .moving .travelling) ∧
      (withGate (gateAt .moving .travelling)).cru.working = true ∧ run.road.gate 1 = none ∧
      (withGate { gateAt .jammed .idle with reported := some .fault }).road.gate 0 =
        some { gateAt .jammed .idle with reported := some .fault } := by
  decide +kernel

/-- A retry takes a jammed gate last reported FAULT to FAULT, and so sets GATE_FAULT (R127). -/
theorem test_retry_to_fault_sets_gate_fault :
    (match exec (.gateRetry ⟨[0], false⟩)
        (withGate { gateAt .jammed .idle with reported := some .fault }) with
      | .next t => (t.road.gate 0).map (·.pos) == some .fault && hasFlag t.road.flags .gateFault
      | _ => false) = true := by decide +kernel

/-- A gate in FAULT under GATE_RETRY: the next FAULT sets GATE_FAULT, and the one after it does not (R127,
R132). -/
theorem test_retried_gate_goes_to_fault_again :
    let polled (s : State) : State :=
      { s with road := { s.road.setLine 0 (lineWith 1 .poll none) with flags := 0 } }
    let report (s : State) := exec (.status 0 2 (.gate [.empty, .empty] .fault .remote)) (polled s)
    (match exec (.gateRetry ⟨[0], false⟩)
        (withGate { gateAt .fault .idle with reported := some .fault }) with
      | .next s => match report s with
        | .next t => hasFlag t.road.flags .gateFault &&
          (t.road.gate 0).map (fun z => (z.pos, z.retried)) == some (.fault, false) &&
          (match report t with
            | .next u => !hasFlag u.road.flags .gateFault
            | _ => false)
        | _ => false
      | _ => false) = true := by decide +kernel

/-- RUNNING with section 0 in NOTICE or SWEEP, its timers as given. -/
def timed (x : SectionRec) : State := runWith (·.setSec 0 x)

/-- Each timer one millisecond below its limit: the millisecond queues that timer's command. -/
theorem test_meets_idle_step_limits :
    (timed ⟨.notice, some 999, none, none, false⟩).tick.pending = [.noticeTimerReachesL 0] ∧
      (timed ⟨.notice, some 1999, none, none, false⟩).tick.pending = [.noticeWaitRunOut 0] ∧
      (timed ⟨.sweep, none, some 999, some 0, false⟩).tick.pending = [.sweepMinimumRun 0] ∧
      (timed ⟨.sweep, none, none, some 59999, false⟩).tick.pending = [.sweepOverdueRun 0] ∧
      (withGate { gateAt .moving .travelling with timer := some 9999 }).tick.pending =
        [.travelLimitReached 0] ∧
      (runWith (·.setInput 0 ⟨.working, some .high, some 29999, false, 0, 0⟩)).tick.pending =
        [.stuckLimitReached 0] ∧
      (runWith (·.setPath 0 ⟨.counting, 0, some 9999, 1, some 0, none, none⟩)).tick.pending =
        [.windowRunOut 0] ∧
      (runWith fun r => r.setLine 0 { r.line 0 with inFlight := some ⟨0, .poll, 49⟩ }).tick.pending =
        [.fieldResponseTimeout 0] ∧
      (runWith ({ · with settle := some ⟨999, 1⟩ })).tick.pending = [.settleTimeout] ∧
      ({ run with port := { run.port with interval := 10, timer := some 9999 } } : State).tick.pending =
        [.hostIntervalRunOut] ∧
      ({ run with cru := { run.cru with phase := 999 } } : State).tick.pending = [.passTimeSecond] ∧
      run.tick.pending = [] := by
  decide +kernel

theorem test_meets_section_timers :
    (inState .notice).road.secState 0 = some .notice ∧ run.road.secState 0 ≠ some .notice ∧
      (inState .notice).road.ready run.env 0 = true ∧ waitMs run.env 0 = 1000 ∧
      (runWith fun r => (r.setSec 0 (SectionRec.at .notice)).setLink ⟨0, 0⟩
        { kind := some .sign, state := .online, misses := 0, last := none }).road.ready run.env 0 =
        false ∧
      (runWith (·.setSec 0 ⟨.sweep, none, some 0, some 0, false⟩)).road.sec 0 =
        some ⟨.sweep, none, some 0, some 0, false⟩ ∧
      (runWith (·.setOcc 0 (.known 0))).road.occOf 0 = some (.known 0) ∧
      run.road.occOf 0 = some .unknown := by decide +kernel

/-! #### Counting and path watch -/

/-- An input record. -/
def inputAt (st : InState) (level : Level) (timer : Option Nat) (part : Bool) : InputRec :=
  { state := st, level := some level, timer := timer, partialMark := part, counted := 0, short := 0 }

/-- RUNNING with input 0 and its section's occupancy as given. -/
def counting (x : InputRec) (o : Occ) : State := runWith fun r => (r.setInput 0 x).setOcc 0 o

/-- Widths at the minimum pulse and one below it, and the timer one below the stuck limit. -/
theorem test_meets_detectors :
    (counting (inputAt .working .high (some 29998) false) .unknown).road.input 0 =
        inputAt .working .high (some 29998) false ∧
      29998 + 1 < (run.plan.detector 0).stuck * 1000 ∧
      ¬ 29999 + 1 < (run.plan.detector 0).stuck * 1000 ∧
      59 < (run.plan.detector 0).minPulse ∧ (run.plan.detector 0).minPulse ≤ 60 ∧
      (run.plan.detector 0).assign = some (0, .out) ∧
      (counting (inputAt .working .high (some 60) false) (.known 0)).road.occOf 0 =
        some (.known 0) ∧
      (counting (inputAt .stuck .high none false) (.known 4095)).road.occOf 0 =
        some (.known 4095) ∧
      (run.road.input 15).state = .unused ∧
      (counting (inputAt .working .low none false) .unknown).road.input 0 =
        inputAt .working .low none false := by decide +kernel

/-- A path record in a watch state. -/
def pathAt (w : Watch) (count : Nat) (b : Option Byte) : PathRec :=
  { watch := w, level := 0, timer := none, count := count, baseline := b, link := none,
    last := none }

/-- RUNNING with path 0 so, and its monitor polled. -/
def watching (x : PathRec) : State :=
  runWith fun r => (r.setPath 0 x).setLine 0 (lineWith 2 .poll none)

theorem test_meets_path_watch :
    (watching (pathAt .counting 2 (some 255))).road.path 0 =
        some (pathAt .counting 2 (some 255)) ∧
      (watching (pathAt .quiet 0 (some 255))).road.path 0 = some (pathAt .quiet 0 (some 255)) ∧
      (watching (pathAt .waiting 0 none)).road.path 0 = some (pathAt .waiting 0 none) ∧
      (watching (pathAt .silent 0 none)).road.path 0 = some (pathAt .silent 0 none) ∧
      ((watching (pathAt .silent 0 none)).road.line 0).inFlight = some ⟨2, .poll, 0⟩ ∧
      (3 : Byte).toNat = (2 : Fin 12).val + 1 ∧ (run.road.link ⟨0, 2⟩).kind = some .monitor ∧
      ((run.plan.path 0).map (·.monitor)) = some (some ⟨0, 2⟩) ∧
      ((0 : Byte) - 255).toNat = 1 ∧ ((run.plan.path 0).map (·.threshold 0)) = some 3 := by
  decide +kernel

/-- A new danger level meets a COUNTING path at its new threshold, and a SILENT one at its silent closure
level; a level below leaves both. -/
theorem test_meets_danger_told :
    actsOnTable (.post ⟨[], false⟩) = true ∧ actsOnTable .passTimeSecond = true ∧
      (pathAt .counting 2 (some 255)).level = 0 ∧
      (plan.path 0).map (fun x => (x.threshold 0, x.threshold 1, x.silent)) = some (3, 2, 2) ∧
      (match exec (.post ⟨[1, 1, 0, 0, 1, 255, 0, 0, 0, 0], false⟩)
          (watching (pathAt .counting 2 (some 255))) with
        | .next t => (t.road.path 0).map (fun y => (y.watch, y.level, y.count)) ==
          some (.quiet, 1, 0) && hasFlag t.road.flags .pathTrip
        | _ => false) = true ∧
      (match exec (.post ⟨[1, 1, 0, 0, 2, 255, 0, 0, 0, 0], false⟩)
          (watching (pathAt .silent 0 none)) with
        | .next t => (t.road.path 0).map (fun y => (y.watch, y.level, y.last)) ==
          some (.silent, 2, some (.silent, 1000))
        | _ => false) = true := by decide +kernel

/-- The level law with an ACTIVE danger posting in the table. -/
theorem test_meets_level_law :
    ((holding danger).road.setPath 0 { pathAt .quiet 0 none with level := 1 }).LevelLaw :=
  level_law_of (by decide +kernel)

/-- The AUTO closure of path 0, in a state. -/
def auto (st : PState) : Posting :=
  { closure with state := st, authority := .auto, path := some 0, last := 1, pin := some 900 }

/-- Path 0 linked to that closure, one trip short of its threshold. -/
def tripping (st : PState) : State :=
  { watching { pathAt .counting 2 (some 255) with link := some handle } with
    road := (watching { pathAt .counting 2 (some 255) with link := some handle }).road.setSlot 0
      ⟨1, 1, some (auto st)⟩ }

/-- The AUTO action of a path that alone has its monitor: with no closure, an ACTIVE and a RETIRING
one. -/
theorem test_meets_auto_action :
    (∀ m, ∀ z ∈ plan.path m, z.monitor = some ⟨0, 2⟩ → m = 0) ∧
      (plan.path 0).map (fun pl => decide (run.cru.passTime + pl.hold ≤ 4294967295)) = some true ∧
      (run.road.slot 0).posting = none ∧
      (tripping .active).road.named handle = some (auto .active) ∧
      (tripping .retiring).road.named handle = some (auto .retiring) ∧
      (match exec (.status 0 0x03 (.monitor 0 false)) (tripping .retiring) with
        | .next t => (t.road.named handle).map (·.state) == some .active &&
          t.road.version handle == 2
        | _ => false) = true := by decide +kernel

/-! #### SETTLE, and the field lines -/

theorem test_meets_settle_and_abort :
    readBody (within2 1 600) [0, 1] = some 1 ∧ readBody (within2 1 600) [2, 88] = some 600 ∧
      run.port.state = .ready ∧ run.part = .running ∧ run.road.queue = [] ∧
      standing.queue ≠ [] ∧ (headStep run.env standing).isNone = true ∧
      run.road.settle = none := by decide +kernel

/-- A SETTLE's marker that leaves the head at once runs the freeing test (R14, R93). -/
theorem test_settle_frees_a_retiring_posting :
    (match exec (.settle ⟨[0, 1], false⟩) (holding { closure with state := .retiring }) with
      | .next t => (t.road.slot 0).posting == none && t.road.settle == none &&
        (t.port.reply.map (·.code)) == some .settled
      | _ => false) = true := by decide +kernel

/-- An entry on both sides of the marker, under the head law. -/
theorem test_meets_settle_end :
    Road.QueueLaw { standing with settle := some { ms := 0, timeout := 1 } } ∧
      Road.HeadLaw { standing with settle := some { ms := 0, timeout := 1 } } ∧
      (standing.queue.takeWhile (· != .marker)).tail = [] ∧
      behindMarker standing.queue = [.posting handle] ∧ (port .busy none).port.state = .busy :=
  ⟨⟨fun _ => rfl, by decide, by decide, by decide⟩, fun en q h => by
      cases h
      exact ⟨by decide, _, rfl, fun _ => ⟨_, List.mem_singleton.mpr rfl, rfl⟩, fun h => (by cases h)⟩,
    by decide +kernel, by decide +kernel, rfl⟩

/-- A SETTLE that waits. -/
def settling : State :=
  { run with port := { run.port with state := .busy }
             road := { standing with settle := some { ms := 0, timeout := 1 } } }

/-- A transaction that began before the timeout still shows BUSY, and leaves the reply (R192); one that
begins after it takes the reply. -/
theorem test_transaction_across_a_settle_timeout :
    (match exec .settleTimeout settling with
      | .next t =>
        (match exec (.replyRead ⟨9, true⟩) t with
          | .next u => u.port.out.head? == some 0x02 && u.port.state == .unread
          | _ => false) &&
        (match exec (.replyRead ⟨9, false⟩) t with
          | .next u => u.port.out.head? == some 0x03 && u.port.state == .ready
          | _ => false)
      | _ => false) = true := by decide +kernel

/-- An ABORT ends the SETTLE whatever body it carries (R195). -/
theorem test_abort_with_a_body_ends_the_settle :
    (match exec (.abort ⟨[7], false⟩) settling with
      | .next t => t.port.state == .unread && (t.port.reply.map (·.code)) == some .aborted &&
        t.road.settle == none
      | _ => false) = true := by decide +kernel

theorem test_meets_road_event_frame :
    fromRoad (.noAnswer 0) = true ∧ fromRoad (.detectorRise 15) = true ∧
      lineOf (.noAnswer 0) ≠ some 3 ∧ lineOf (.detectorRise 15) = none := by decide

/-- What line 0 sends after an event, and its poll pointer. -/
def sends (c : Instr) (s : State) (a : Fin 12) (sent : Sent) (pointer : Fin 12) : Bool :=
  match exec c s with
  | .next t => (t.road.line 0).inFlight == some ⟨a, sent, 0⟩ && (t.road.line 0).pointer == some pointer
  | _ => false

/-- The GATE ONLINE, with the MONITOR polled, and an order or a transfer on the line. -/
def busyLine (orders : List GateOrder) (t : Option Transfer) (s : State) : State :=
  { s with
    road := (s.road.setLink ⟨0, 1⟩
      { kind := some .gate, state := .online, misses := 0, last := none }).setLine 0
        { lineWith 2 .poll t with orders := orders } }

/-- The SIGN's reconcile work for the closure, which no copy holds yet. -/
def working : State :=
  { signed (holding closure) with road := { (signed (holding closure)).road with
      queue := [.posting handle]
      work := some { phase := .reconcile, fetch := [], affected := [⟨0, 0⟩], ended := [] } } }

/-- After a POLL a gate order, a transfer in progress, a new one, and with none of them the next round,
here the lowest address; after a work exchange the next round at once (R50, R51). -/
theorem test_meets_line_goes_on :
    sends (.status 0 3 (.monitor 0 false)) (busyLine [⟨1, .toClose, false, false⟩] (some (loading [])) run)
        1 (.gateOrder .toClose) 2 = true ∧
      sends (.noAnswer 0) (busyLine [] (some (loading [])) run) 0 .work 2 = true ∧
      sends (.noAnswer 0) (busyLine [] none working) 0 .work 2 = true ∧
      sends (.noAnswer 0) (busyLine [] none run) 0 .poll 0 = true ∧
      sends (.ack 0 1) (online (lineWith 0 .work (some (loading [])))) 1 .poll 1 = true ∧
      Flying (busyLine [] none run) 0 2 .poll :=
  ⟨by decide +kernel, by decide +kernel, by decide +kernel, by decide +kernel, by decide +kernel,
    ⟨0, by decide +kernel⟩⟩

/-- The work that stands at the head of `working`, at the start of its fetch phase. -/
def fetchWork : HeadWork :=
  { phase := .fetch, fetch := [⟨⟨0, 0⟩, 2, false⟩], affected := [], ended := [] }

/-- `working` with the SIGN's copy slots and the head's work as given, and a RETIRING posting in slot 9. -/
def facing (d : List CopySlot) (w : HeadWork → HeadWork) : State :=
  { working with road := { (working.road.setDirOf ⟨0, 0⟩ d).setSlot 9
      ⟨1, 1, some { closure with state := .retiring }⟩ with
    work := working.road.work.map w } }

/-- What the head entry has for line 0: handle of a load or fetch, copy slot, overrule mark. -/
def takes (d : List CopySlot) (w : HeadWork → HeadWork) (o : Option (Option Handle × Nat × Bool)) : Bool :=
  match (facing d w).road.offer run.env 0 with
  | .take x => some (match x.kind with
      | .load im => some im.handle
      | .fetch h => some h
      | .clear => none, x.slot, x.overrule) == o
  | .wait | .changed _ => o == none

/-- A stale handle. -/
def stale (i : Fin 256) : CopySlot := .current ⟨i, 7⟩ 1

/-- An update ahead of a placement, an OVERRULED slot with the mark, the lowest EMPTY slot, a victim of
class 1 ahead of one of class 2, a clear, an AMENDED slot left alone, and a fetch (R78, R81, R82, R105). -/
theorem test_head_gives_each_item :
    takes [.empty, stale 20, .behind handle 1] id (some (some handle, 2, false)) = true ∧
      takes [stale 20, .overruled handle 1] id (some (some handle, 1, true)) = true ∧
      takes [stale 20, .empty, .empty] id (some (some handle, 1, false)) = true ∧
      takes [.current ⟨9, 1⟩ 1, stale 20, stale 21] id (some (some handle, 1, false)) = true ∧
      takes [.overruled ⟨9, 1⟩ 1, .amended ⟨21, 7⟩ 1] id (some (some handle, 0, true)) = true ∧
      takes [.current handle 1, .amended ⟨21, 7⟩ 1, .behind ⟨9, 1⟩ 1] id
        (some (none, 2, false)) = true ∧
      takes [.current handle 1, .amended ⟨21, 7⟩ 1] id none = true ∧
      takes [.empty, .empty, .amended handle 1] (fun _ => fetchWork)
        (some (some handle, 2, false)) = true := by
  decide +kernel

/-- The head law of that state, and head work that the event does not end. -/
theorem test_meets_head_progress :
    working.road.HeadLaw ∧ (busyLine [] none working).road.queue ≠ [] ∧
      (headStep working.env (busyLine [] none working).road).isNone = true ∧
      ((facing [.amended handle 1] fun _ => fetchWork).road.work.map (·.phase)) = some .fetch :=
  ⟨fun en q h => by
      cases h
      exact ⟨by decide, _, rfl, fun h => (by cases h),
        fun _ => ⟨_, List.mem_singleton.mpr rfl, by decide⟩⟩,
    by decide +kernel, by decide +kernel, by decide +kernel⟩

/-- The entries after an event. -/
def queueAfter (c : Instr) (s : State) : Option (List Entry) :=
  match exec c s with
  | .next t => some t.road.queue
  | _ => none

/-- The SIGN's transfer in flight, with the head entry's work left for the GATE too. -/
def failing (x : Transfer) (q : List Entry) : State :=
  { working with road := { working.road.setLine 0 (lineWith 0 .work (some x)) with
      queue := q
      work := some { phase := .reconcile, fetch := [], affected := [⟨0, 0⟩, ⟨0, 1⟩], ended := [] } } }

/-- A failed transfer's unit entry takes the tail, or goes into one that stands; a try left makes none
(R75, R87). -/
theorem test_failure_makes_a_unit_entry :
    queueAfter (.nak 0 1) (failing { loading [] with step := .commit, tries := 2 } [.posting handle]) =
        some [.posting handle, .unit ⟨0, 0⟩] ∧
      queueAfter (.noAnswer 0) (failing { loading [] with kind := .clear, step := .clear }
        [.posting handle, .unit ⟨0, 0⟩, .posting ⟨5, 1⟩]) =
        some [.posting handle, .unit ⟨0, 0⟩, .posting ⟨5, 1⟩] ∧
      queueAfter (.nak 0 1) (failing (loading []) [.posting handle]) = some [.posting handle] ∧
      (headStep run.env (failing (loading []) [.posting handle]).road).isNone = true ∧
      (failing (loading []) [.posting handle]).road.online ⟨0, 0⟩ = true := by decide +kernel

/-- The SIGN polled, its copy slots as given, behind a head entry that waits for its report. -/
def asking (d : List CopySlot) (orders : List GateOrder) : State :=
  let s := facing d id
  { s with
    road := (s.road.setLink ⟨0, 1⟩
      { kind := some .gate, state := .online, misses := 0, last := none }).setLine 0
        { lineWith 0 .poll none with orders := orders } }

/-- A SIGN's report of a newly amended slot, of one with a stale handle, and of a slot found empty, while
a gate order is due on the line (R51, R74, R89, R90). -/
theorem test_report_makes_its_entries :
    queueAfter (.status 0 1 (.sign (.held handle 1 true :: List.replicate 7 .empty)))
        (asking (.current handle 1 :: List.replicate 7 .empty) [⟨1, .toClose, false, false⟩]) =
        some [.posting handle, .posting handle] ∧
      queueAfter (.status 0 1 (.sign (.held ⟨20, 7⟩ 1 true :: List.replicate 7 .empty)))
        (asking (stale 20 :: List.replicate 7 .empty) [⟨1, .toClose, false, false⟩]) =
        some [.posting handle, .unit ⟨0, 0⟩] ∧
      queueAfter (.status 0 1 (.sign (List.replicate 8 .empty)))
        (asking (stale 20 :: List.replicate 7 .empty) [⟨1, .toClose, false, false⟩]) =
        some [.posting handle, .unit ⟨0, 0⟩] ∧
      (headStep run.env (asking [.empty] []).road).isNone = true := by decide +kernel

/-- A first status finds its SIGN with nothing to do on an empty queue: its unit entry has come and gone
(R84, R91). -/
theorem test_first_status_entry_is_worked_off :
    queueAfter (.status 0 1 (.sign (List.replicate 8 .empty))) run = some [] ∧
      run.road.reportCalls ⟨0, 0⟩ (List.replicate 8 .empty) = [.unit ⟨0, 0⟩] ∧
      run.road.work = none := by decide +kernel

/-- Units one miss short of a loss, and with none. -/
theorem test_meets_no_answer :
    Flying run 0 0 .poll ∧ (run.road.link ⟨0, 0⟩).misses < 2 ∧
      ((runWith (·.setLink ⟨0, 0⟩
        { kind := some .sign, state := .online, misses := 2, last := none })).road.link
          ⟨0, 0⟩).misses = 2 ∧
      Flying (online (lineWith 0 .work (some (loading [])))) 0 0 .work ∧
      (online (lineWith 0 .work (some (loading [])))).cru.working = true :=
  ⟨⟨0, by decide +kernel⟩, by decide +kernel, by decide +kernel, ⟨0, by decide +kernel⟩,
    by decide +kernel⟩

/-- A MONITOR one miss short of its loss, which one WORKING path watches at level 0. -/
def fading : State :=
  { watching (pathAt .quiet 0 (some 255)) with
    road := (watching (pathAt .quiet 0 (some 255))).road.setLink ⟨0, 2⟩
      { kind := some .monitor, state := .online, misses := 2, last := none } }

theorem test_meets_monitor_loss :
    Flying fading 0 2 .poll ∧ (fading.road.link ⟨0, 2⟩).misses = 2 ∧
      fading.road.path 0 = some (pathAt .quiet 0 (some 255)) ∧
      (fading.plan.path 0).map (fun x => (x.monitor, x.silent)) = some (some ⟨0, 2⟩, 2) ∧
      fading.road.HeadLaw ∧ fading.road.Uncopied ⟨0, 2⟩ ∧
      (∀ m, ∀ z ∈ plan.path m, z.monitor = some ⟨0, 2⟩ → m = 0) :=
  ⟨⟨0, by decide +kernel⟩, by decide +kernel, by decide +kernel, by decide +kernel,
    headless (by decide +kernel),
    ⟨by decide +kernel, fun w hw => by
      have h : fading.road.work = none := by decide +kernel
      rw [h] at hw
      cases hw⟩, by decide +kernel⟩

/-- The loss takes the path to SILENT; in UNATTENDED it acts (R160, R164). -/
theorem test_monitor_loss_silences_its_path :
    (match exec (.noAnswer 0) { fading with port := { fading.port with mode := .unattended } } with
      | .next t => (t.road.path 0).map (fun y => (y.watch, y.last)) ==
          some (.silent, some (.silent, 1000)) &&
        hasFlag t.road.flags .pathSilent && (t.road.slot 0).posting.map (·.authority) == some .auto
      | _ => false) = true := by decide +kernel

theorem test_meets_stray_answers :
    (run.road.line 3).inFlight = none ∧ lineOf (.ack 3 1) = some 3 ∧ Flying run 0 0 .poll ∧
      (2 : Byte).toNat ≠ (0 : Fin 12).val + 1 ∧
      (run.road.link ⟨0, 0⟩).kind ≠ some (reportKind (.monitor 0 false)) ∧
      ((online (lineWith 0 .work (some (loading [[65]])))).road.line 0).transfer =
        some (loading [[65]]) ∧
      Flying (online (lineWith 1 (.gateOrder .toClose) none)) 0 1 (.gateOrder .toClose) :=
  ⟨by decide +kernel, rfl, ⟨0, by decide +kernel⟩, by decide, by decide +kernel, by decide +kernel,
    ⟨0, by decide +kernel⟩⟩

theorem test_meets_sign_and_gate_status :
    Flying run 0 0 .poll ∧ (1 : Byte).toNat = (0 : Fin 12).val + 1 ∧
      (run.road.link ⟨0, 0⟩).kind = some .sign ∧ (run.road.link ⟨0, 0⟩).state ≠ .online ∧
      (List.replicate 8 SlotReport.empty).length = 8 ∧
      Flying (online (lineWith 1 .poll none)) 0 1 .poll ∧
      (run.road.link ⟨0, 1⟩).kind = some .gate ∧ gateOf run.env ⟨0, 1⟩ = some 0 ∧
      (run.road.gate 0).map (·.standing) = some .toOpen ∧ (run.plan.sec 0).isSome = true ∧
      (run.road.slot 0).posting = none ∧
      (withGate { gateAt .jammed .idle with key := some .remote }).road.gate 0 =
        some { gateAt .jammed .idle with key := some .remote } ∧
      (run.road.dirOf ⟨0, 1⟩)[1]? = some .unknown :=
  ⟨⟨0, by decide +kernel⟩, by decide, by decide +kernel, by decide +kernel, rfl,
    ⟨0, by decide +kernel⟩, by decide +kernel, by decide +kernel, by decide +kernel,
    by decide +kernel, by decide +kernel, by decide +kernel, by decide +kernel⟩

/-- A GATE polled with its barrier and its section as given. -/
def reporting (x : GateRec) (st : SecState) : State :=
  { withGate x with
    road := ((withGate x).road.setSec 0 (SectionRec.at st)).setLine 0 (lineWith 1 .poll none) }

/-- A GATE's report leaves its section in a state, and the gate in a position and an order phase. -/
def reports (s : State) (pos : GatePos) (key : KeyMode) (st : SecState) (p : PosState)
    (phase : OrderPhase) : Bool :=
  match exec (.status 0 2 (.gate [.empty, .empty] pos key)) s with
  | .next t => t.road.secState 0 == some st &&
    (t.road.gate 0).any fun z => z.pos == p && z.phase == phase
  | _ => false

/-- The section tests, the end of travel, the order made again, and the turn to LOCAL (R120, R125, R130,
R131, R133). -/
theorem test_meets_gate_report_clauses :
    reports (reporting { gateAt .moving .travelling with standing := .toClose } .shutting)
        .closed .remote .sweep .closed .idle = true ∧
      reports (reporting (gateAt .moving .travelling) .opening) .isOpen .remote
        .isOpen .isOpen .idle = true ∧
      reports (reporting (gateAt .isOpen .idle) .isOpen) .closed .remote
        .isOpen .closed .pending = true ∧
      reports (reporting (gateAt .moving .travelling) .opening) .moving .atPanel
        .opening .moving .idle = true := by decide +kernel

/-- The FIELD closure of the gate's section. -/
def field (st : PState) : Posting :=
  { closure with state := st, authority := .field, severity := 6 }

/-- The gate linked to that closure in slot 0, its standing order OPEN. -/
def linked (st : PState) : State :=
  let s := reporting { gateAt .isOpen .idle with link := some handle } .isOpen
  { s with road := s.road.setSlot 0 ⟨1, 1, some (field st)⟩ }

/-- Shut under LOCAL key a gate has its FIELD closure made, or its RETIRING one revived (R19, R134). -/
theorem test_field_closure_of_a_report :
    (match exec (.status 0 2 (.gate [.empty, .empty] .closed .atPanel))
        (reporting (gateAt .isOpen .idle) .isOpen) with
      | .next t => t.road.slot 0 == ⟨1, 1, some (field .active)⟩
      | _ => false) = true ∧
      ((linked .retiring).road.gate 0).map (·.link) = some (some handle) ∧
      (linked .retiring).road.named handle = some (field .retiring) ∧
      (linked .active).road.named handle = some (field .active) ∧
      (match exec (.status 0 2 (.gate [.held handle 1 false, .empty] .closed .atPanel))
          (linked .retiring) with
        | .next t => t.road.slot 0 == ⟨1, 2, some (field .active)⟩
        | _ => false) = true := by decide +kernel

/-- Each step of a load, a clear and a fetch, at the first and the last try. -/
theorem test_meets_line_answers :
    Flying (online (lineWith 1 (.gateOrder .toOpen) none)) 0 1 (.gateOrder .toOpen) ∧
      (withGate (gateAt .closed .pending)).road.gate 0 = some (gateAt .closed .pending) ∧
      gateOf run.env ⟨0, 1⟩ = some 0 ∧ (∀ i, run.road.secState i ≠ some .notice) ∧
      ((online (lineWith 0 .work (some { loading [] with step := .commit, tries := 2 }))).road.line
        0).transfer = some { loading [] with step := .commit, tries := 2 } ∧
      ((online (lineWith 0 .work (some { loading [[65]] with step := .line 0 }))).road.line
        0).transfer = some { loading [[65]] with step := .line 0 } ∧
      ((online (lineWith 0 .work (some { loading [] with kind := .clear, step := .clear }))).road.line
        0).transfer = some { loading [] with kind := .clear, step := .clear } ∧
      (run.road.dirOf ⟨0, 0⟩)[7]? = some .unknown :=
  ⟨⟨0, by decide +kernel⟩, by decide +kernel, by decide +kernel, by decide +kernel,
    by decide +kernel, by decide +kernel, by decide +kernel, by decide +kernel⟩

/-- The fetch of an AMENDED slot. -/
def fetching : State :=
  { amended with road := amended.road.setLine 0 (lineWith 0 .work
      (some { loading [] with kind := .fetch handle, step := .fetch })) }

theorem test_meets_amend_data :
    Flying fetching 0 0 .work ∧
      (fetching.road.line 0).transfer =
        some { loading [] with kind := .fetch handle, step := .fetch } ∧
      (some 7 : Option Nat).all (· ≤ 7) = true ∧
      (some [[65]] : Option (List (List Byte))).all goodText = true ∧
      (fetching.road.dirOf ⟨0, 0⟩)[0]? = some (.amended handle 1) ∧
      fetching.road.named handle = some closure ∧ closure.state = .active ∧
      closure.authority = .station ∧ fetching.road.version handle = 1 ∧
      1 ≤ fetching.road.freeLines + closure.text.length :=
  ⟨⟨0, by decide +kernel⟩, by decide +kernel, by decide, by decide, by decide +kernel,
    by decide +kernel, rfl, rfl, by decide +kernel, by decide +kernel⟩

/-- `fetching` with the SIGN ONLINE, the GATE's copy CURRENT, and the fetch that of the head entry. -/
def merging : State :=
  { fetching with road := { (fetching.road.setDirOf ⟨0, 1⟩ [.current handle 1, .empty]).setLink ⟨0, 0⟩
      { kind := some .sign, state := .online, misses := 0, last := none } with
    queue := [.unit ⟨0, 0⟩]
    work := some { phase := .fetch, fetch := [⟨⟨0, 0⟩, 0, false⟩], affected := [], ended := [] } } }

/-- A merge marks the GATE's copy BEHIND, and the posting's entry takes the tail; a stale base makes no
entry (R17, R103, R104). -/
theorem test_merge_marks_and_queues :
    (match exec (.amendData 0 1 1 (some 7) none) merging with
        | .next t => t.road.dirOf ⟨0, 1⟩ == [.behind handle 1, .empty]
        | _ => false) = true ∧
      queueAfter (.amendData 0 1 1 (some 7) none) merging = some [.unit ⟨0, 0⟩, .posting handle] ∧
      queueAfter (.amendData 0 1 2 (some 7) none) merging = some [.unit ⟨0, 0⟩] := by decide +kernel

end Sys2Proof.Tests
end

/-! PROOFS. The posting table (chapter 1): what a cold start leaves in it. -/

namespace Sys2Proof.Machine

namespace ColdTable

/-! ### What a cold start makes of the table's blocks -/

@[simp] theorem slot_coldStart (s : State) (i : Fin 256) : s.coldStart.road.slot i = Slot.cold := by
  simp [State.coldStart, Road.cold, Road.slot, vget]

@[simp] theorem freeLines_coldStart (s : State) : s.coldStart.road.freeLines = Config.poolLines := rfl

@[simp] theorem reserve_coldStart (s : State) : s.coldStart.road.reserve = 0 := rfl

@[simp] theorem part_coldStart (s : State) : s.coldStart.part = .planning := rfl

@[simp] theorem timeValid_coldStart (s : State) : s.coldStart.cru.timeValid = false := rfl

/-- A cold start leaves no posting of any sort; the used reserve is one such count (R8). -/
theorem countPostings_coldStart (s : State) (f : Posting → Bool) :
    s.coldStart.road.countPostings f = 0 :=
  Lawful.count_none (fun i => by rw [slot_coldStart]; rfl) f

/-! ### The first handle of a slot -/

/-- The slot just taken: the next generation and the next version (R1, R4). -/
theorem slot_occupy_self (r : Road) (i : Fin 256) (p : Posting) :
    (r.occupy i p).slot i =
      { gen := (r.slot i).gen + 1, version := (r.slot i).version + 1, posting := some p } := by
  rw [Keeps.occupy_slot, if_pos rfl]

theorem handleAt_occupy_self (r : Road) (i : Fin 256) (p : Posting) :
    (r.occupy i p).handleAt i = ⟨i, (r.slot i).gen + 1⟩ := by
  rw [Road.handleAt, slot_occupy_self]

/-- A slot that is as a cold start leaves it gives generation 1 at version 1. -/
theorem first_handle_of_cold {r : Road} {i : Fin 256} (h : r.slot i = Slot.cold) (p : Posting) :
    (r.occupy i p).handleAt i = ⟨i, 1⟩ ∧ ((r.occupy i p).slot i).version = 1 := by
  rw [handleAt_occupy_self, slot_occupy_self, h]
  exact ⟨rfl, rfl⟩

/-- Settles O4: each value of R29 from the lemma on its field; the first handle, because taking a slot
raises both counts from the zeros of a cold one. -/
theorem coldStartTable : Obligations.ColdStartTable := by
  intro s
  refine ⟨?slots, ?pool, ?reserve, ?used, ?planning, ?time, ?handle⟩
  case slots => exact slot_coldStart s
  case pool => exact freeLines_coldStart s
  case reserve => exact reserve_coldStart s
  case used => exact countPostings_coldStart s _
  case planning => exact part_coldStart s
  case time => exact timeValid_coldStart s
  case handle => exact fun i p => first_handle_of_cold (slot_coldStart s i) p

end ColdTable

end Sys2Proof.Machine

/-! PROOFS. Requests taken on a READY port (chapter 11), and READ_TIME among them (chapter 10). -/

namespace Sys2Proof.Machine

namespace Taken

/-! ### A good frame on a READY port -/

/-- A READY port shows itself READY: no SETTLE's end can have overtaken the transaction (R192). -/
theorem stateShown_of_ready {p : Port} (h : p.state = .ready) (begun : Bool) :
    p.stateShown begun = .ready := by
  simp [Ports.stateShown_eq, h]

/-- A port that can take a request shifts out its status and then fillers (R202). -/
theorem idleBytes_of_taking {s : State} (h : Taking s) (n : Nat) (begun : Bool) :
    s.idleBytes n begun = readyBytes n := by
  obtain ⟨hworking, hready⟩ := h
  rw [State.idleBytes, if_pos hworking, stateShown_of_ready hready]
  rfl

/-- The state a taken request's handler acts on: the port alone has changed, by the bytes that passed
each way (R192, R202, R203). -/
def received (s : State) (code : Byte) (body : List Byte) : State :=
  (s.shiftOut (readyBytes (body.length + 4))).receive code body

@[simp] theorem received_cru (s : State) (code : Byte) (body : List Byte) :
    (received s code body).cru = s.cru := rfl

/-- A reply placed on what was received, with nothing done in between. -/
theorem place_received (s : State) (code : Byte) (body : List Byte) (rep : Reply) :
    (received s code body).place rep = s.replied code body rep := rfl

/-- A port that can take a request hands it to its handler, and the answer ends the event (R193). -/
theorem request_of_taking {s : State} (h : Taking s) (code : Byte) (body : List Byte) (begun : Bool)
    (run : Handler) :
    request code ⟨body, begun⟩ run s = .next (State.answer (run (received s code body))) := by
  unfold request
  rw [idleBytes_of_taking h]
  exact congrArg _ (if_pos h)

/-- A handler behind the body check runs on a body with no fault of form (R203). -/
theorem withBody_of_read {α : Type} {p : Parse α} {body : List Byte} {x : α}
    (hread : readBody p body = some x) (f : α → Handler) (s : State) :
    withBody p body f s = f x s := by
  unfold withBody
  rw [hread]

/-- A taken request that only reads does nothing but get its answer. -/
theorem request_reads_of_taking {α : Type} {p : Parse α} {body : List Byte} {x : α} {s : State}
    (h : Taking s) (hread : readBody p body = some x) (code : Byte) (begun : Bool)
    (f : State → α → Reply) :
    request code ⟨body, begun⟩ (withBody p body (reads f)) s =
      .next (s.replied code body (f (received s code body) x)) := by
  rw [request_of_taking h, withBody_of_read hread]
  exact congrArg _ (place_received s code body _)

/-! ### READ_TIME (R185) -/

/-- A request that takes no body has no fault of form without one. -/
theorem readBody_noBody_nil : readBody noBody [] = some () := rfl

theorem exec_readTime (sent : Shifted) (s : State) :
    exec (.readTime sent) s = execReadTime sent s := rfl

/-- READ_TIME's reply is made of the clock, so what the port received does not change it. -/
theorem timeReply_received (s : State) (code : Byte) (body : List Byte) (u : Unit) :
    timeReply (received s code body) u = timeReply s u := by
  simp [timeReply]

/-- Settles O26: READ_TIME is a request that only reads, in either part state, and its reply is the
same after the port has received it as before. -/
theorem readTime : Obligations.ReadTime := by
  intro s begun h
  calc exec (.readTime ⟨[], begun⟩) s
      = .next (s.replied 0x49 [] (timeReply (received s 0x49 []) ())) := by
        rw [exec_readTime, execReadTime, request_reads_of_taking h readBody_noBody_nil]
    _ = .next (s.replied 0x49 [] (timeReply s ())) := by rw [timeReply_received]

end Taken

end Sys2Proof.Machine

/-! PROOFS. TAKE_ATTENTION (chapter 11): the flags reported, cleared and set again. -/

namespace Sys2Proof.Machine

namespace Attention

open Taken

/-! ### The attention flags -/

/-- A state with every attention flag cleared and all else as it was (R198). -/
def clearFlags (s : State) : State := { s with road := { s.road with flags := 0 } }

@[simp] theorem clearFlags_flags (s : State) : (clearFlags s).road.flags = 0 := rfl

/-- The flags stand apart from the port, so they may be cleared before or after the reply is placed. -/
theorem place_clearFlags (s : State) (rep : Reply) :
    (clearFlags s).place rep = clearFlags (s.place rep) := rfl

/-- With no flag set the line is released, whatever is enabled (R196). -/
theorem attentionLine_of_no_flags {s : State} (h : s.road.flags = 0) : attentionLine s = false := by
  simp [attentionLine, h]

/-- A flag set while none stands is the whole set (R196). -/
theorem raise_flags_of_no_flags {r : Road} (h : r.flags = 0) (f : Flag) :
    (r.raise f).flags = f.bit := by
  simp [Road.raise, h]

/-! ### TAKE_ATTENTION (R198) -/

theorem exec_takeAttention (sent : Shifted) (s : State) :
    exec (.takeAttention sent) s = execTakeAttention sent s := rfl

/-- TAKE_ATTENTION's reply: the flags set, whatever is enabled, and the mode (R198). -/
def attentionReply (s : State) : Reply :=
  { code := .done, body := .attention s.road.flags s.port.mode }

/-- The handler replies from the flags it is about to clear. -/
theorem takeAttention_eq (u : Unit) (s : State) :
    Machine.takeAttention u s = (clearFlags s, some (attentionReply s)) := rfl

/-- The reply is made of the flags and the mode, so what the port received does not change it. -/
theorem attentionReply_received (s : State) (code : Byte) (body : List Byte) :
    attentionReply (received s code body) = attentionReply s := rfl

/-- A taken TAKE_ATTENTION gets its answer and clears the flags, and does nothing else (R198). -/
theorem exec_takeAttention_of_taking {s : State} (h : Taking s) (begun : Bool) :
    exec (.takeAttention ⟨[], begun⟩) s =
      .next (clearFlags (s.replied 0x40 [] (attentionReply s))) := by
  calc exec (.takeAttention ⟨[], begun⟩) s
      = .next (State.answer (Machine.takeAttention () (received s 0x40 []))) := by
        rw [exec_takeAttention, execTakeAttention, request_of_taking h,
          withBody_of_read readBody_noBody_nil]
    _ = .next ((clearFlags (received s 0x40 [])).place (attentionReply (received s 0x40 []))) := by
        rw [takeAttention_eq]
        rfl
    _ = .next (clearFlags (s.replied 0x40 [] (attentionReply s))) := by
        rw [place_clearFlags, attentionReply_received, place_received]

/-- Settles O22: the first request leaves no flag set, so the line is released, and a flag set after it
is the whole set that the next one reports. -/
theorem takeAttention : Obligations.TakeAttention := by
  intro s begun h
  refine ⟨_, exec_takeAttention_of_taking h begun, rfl, ?line, ?again⟩
  case line => exact attentionLine_of_no_flags (clearFlags_flags _)
  case again =>
    intro f u hu hroad
    have hflags : u.road.flags = f.bit := by
      rw [hroad, raise_flags_of_no_flags (clearFlags_flags _)]
    refine ⟨_, exec_takeAttention_of_taking hu begun, ?_⟩
    calc (clearFlags (u.replied 0x40 [] (attentionReply u))).port.reply
        = some (attentionReply u) := rfl
      _ = some { code := .done, body := .attention f.bit u.port.mode } := by
        rw [attentionReply, hflags]

end Attention

end Sys2Proof.Machine
